-- ==== Sys2Proof/Word.lean ====
section
/-! DEFINITION. The word types of the stutonk/chip8 CORE (spec/00_scope.md R5, R7): every value is an unsigned number of a stated width. -/

namespace Sys2Proof

/-- A byte: a general register, a timer, a memory cell, an 8-bit immediate (R5 `REG_BITS`, R60). -/
abbrev Byte := BitVec 8

/-- A 16-bit word: an instruction word, `PC`, `IR`, `IADDR`, `KEYS`, a call-stack entry (R23, R26, R30, R32, R90). -/
abbrev Word16 := BitVec 16

/-- A 12-bit address: `I`, the `nnn` field, the entry of `run` (R5 `ADDR_BITS`, R24, R91, R262). -/
abbrev Addr := BitVec 12

/-- A 4-bit field of an instruction word (R91). -/
abbrev Nibble := BitVec 4

/-- The number of a general register `V[0]` .. `V[15]` (R20). -/
abbrev Reg := Fin 16

/-- The number of a key, 0 .. 15 (R30, R264). -/
abbrev Key := Fin 16

/-- `zext_16` of a 12-bit value (R7). -/
abbrev zext16 (a : Addr) : Word16 := a.setWidth 16

end Sys2Proof
end

