-- ==== Sys2Proof/Syntax.lean ====
section
/-! DEFINITION. The instruction set: one constructor per row of spec/opcode_table.json (34 rows, R94), with the row's fields as typed operands (R91, R93). -/

namespace Sys2Proof

/-- The 34 instructions of R94. A register field is a `Reg`, `n` a `Nibble`, `nn` a `Byte`, `nnn` an `Addr`.
`shr` and `shl` keep the `y` field their meaning ignores (R96), so that no bit of a word is lost. -/
inductive Instr where
  /-- `00E0` CLS (R220) -/
  | cls
  /-- `00EE` RET (R150) -/
  | ret
  /-- `1nnn` JMP (R151) -/
  | jmp (nnn : Addr)
  /-- `2nnn` CALL (R152) -/
  | call (nnn : Addr)
  /-- `3xnn` SE (R153) -/
  | se (x : Reg) (nn : Byte)
  /-- `4xnn` SNE (R154) -/
  | sne (x : Reg) (nn : Byte)
  /-- `5xy0` SE reg (R155) -/
  | seReg (x y : Reg)
  /-- `6xnn` LD imm (R171) -/
  | ldImm (x : Reg) (nn : Byte)
  /-- `7xnn` ADD imm (R172) -/
  | addImm (x : Reg) (nn : Byte)
  /-- `8xy0` MOV (R173) -/
  | mov (x y : Reg)
  /-- `8xy1` OR (R174) -/
  | orReg (x y : Reg)
  /-- `8xy2` AND (R175) -/
  | andReg (x y : Reg)
  /-- `8xy3` XOR (R176) -/
  | xorReg (x y : Reg)
  /-- `8xy4` ADD reg (R177) -/
  | addReg (x y : Reg)
  /-- `8xy5` SUB (R178) -/
  | sub (x y : Reg)
  /-- `8xy6` SHR (R179); `y` is ignored (R96) -/
  | shr (x y : Reg)
  /-- `8xy7` SUBN (R180) -/
  | subn (x y : Reg)
  /-- `8xyE` SHL (R181); `y` is ignored (R96) -/
  | shl (x y : Reg)
  /-- `9xy0` SNE reg (R156) -/
  | sneReg (x y : Reg)
  /-- `Annn` LD I (R200) -/
  | ldI (nnn : Addr)
  /-- `Bnnn` JMP+V0 (R157) -/
  | jmpV0 (nnn : Addr)
  /-- `Cxnn` RND (R182) -/
  | rnd (x : Reg) (nn : Byte)
  /-- `Dxyn` DRAW (R221) -/
  | draw (x y : Reg) (n : Nibble)
  /-- `Ex9E` SKP (R243) -/
  | skp (x : Reg)
  /-- `ExA1` SKNP (R244) -/
  | sknp (x : Reg)
  /-- `Fx07` LD Vx,DT (R240) -/
  | ldVxDt (x : Reg)
  /-- `Fx0A` LD Vx,K (R245) -/
  | ldVxK (x : Reg)
  /-- `Fx15` LD DT,Vx (R241) -/
  | ldDtVx (x : Reg)
  /-- `Fx18` LD ST,Vx (R242) -/
  | ldStVx (x : Reg)
  /-- `Fx1E` ADD I,Vx (R201) -/
  | addIVx (x : Reg)
  /-- `Fx29` LD I,F (R202) -/
  | ldIF (x : Reg)
  /-- `Fx33` BCD (R203) -/
  | bcd (x : Reg)
  /-- `Fx55` STOR (R204) -/
  | stor (x : Reg)
  /-- `Fx65` READ (R205) -/
  | read (x : Reg)
deriving DecidableEq, Repr

end Sys2Proof
end

