-- ==== Sys2Proof/Decode.lean ====
section
/-! DEFINITION. The decoder (R90 to R97): from the 16-bit word to an instruction, rejecting an illegal word by the name of its family (R95), and the encoder written from the same table (R92, R94). -/

namespace Sys2Proof

/-- Why bytes are not an instruction. -/
inductive DecodeError where
  /-- `0nnn` other than `00E0` and `00EE` (R95, D35) -/
  | family0
  /-- `5xyn` with `n` not 0 (R95) -/
  | family5
  /-- `8xyn` with `n` in 8, 9, A, B, C, D, F (R95) -/
  | family8
  /-- `9xyn` with `n` not 0 (R95) -/
  | family9
  /-- `Exnn` with `nn` not 9E or A1 (R95) -/
  | familyE
  /-- `Fxnn` with `nn` none of the nine of R94 (R95) -/
  | familyF
  /-- fewer than two bytes are left (R90: an instruction is two bytes) -/
  | tooShort
deriving DecidableEq, Repr

/-! ### The fields of a word (R91) -/

/-- `op`, bits 15:12. -/
def fieldOp (w : Word16) : Nibble := w.extractLsb' 12 4

/-- `x`, bits 11:8, as a register number. -/
def fieldX (w : Word16) : Reg := (w.extractLsb' 8 4).toFin

/-- `y`, bits 7:4, as a register number. -/
def fieldY (w : Word16) : Reg := (w.extractLsb' 4 4).toFin

/-- `n`, bits 3:0. -/
def fieldN (w : Word16) : Nibble := w.extractLsb' 0 4

/-- `nn`, bits 7:0. -/
def fieldNN (w : Word16) : Byte := w.extractLsb' 0 8

/-- `nnn`, bits 11:0. -/
def fieldNNN (w : Word16) : Addr := w.extractLsb' 0 12

/-- The word of two bytes, the byte at the lower address holding bits 15:8 (R65). -/
def wordOfBytes (hi lo : Byte) : Word16 := hi ++ lo

/-- The two bytes of a word, in the order Memory holds them (R65). -/
def bytesOfWord (w : Word16) : List Byte := [w.extractLsb' 8 8, w.extractLsb' 0 8]

/-! ### Decoding (R94, R95) -/

/-- Family 8: the sub-operation is `n`. -/
def decodeFamily8 (x y : Reg) (n : Nibble) : Except DecodeError Instr :=
  if n = 0x0 then .ok (.mov x y)
  else if n = 0x1 then .ok (.orReg x y)
  else if n = 0x2 then .ok (.andReg x y)
  else if n = 0x3 then .ok (.xorReg x y)
  else if n = 0x4 then .ok (.addReg x y)
  else if n = 0x5 then .ok (.sub x y)
  else if n = 0x6 then .ok (.shr x y)
  else if n = 0x7 then .ok (.subn x y)
  else if n = 0xE then .ok (.shl x y)
  else .error .family8

/-- Family E: the sub-operation is `nn`. -/
def decodeFamilyE (x : Reg) (nn : Byte) : Except DecodeError Instr :=
  if nn = 0x9E then .ok (.skp x)
  else if nn = 0xA1 then .ok (.sknp x)
  else .error .familyE

/-- Family F: the sub-operation is `nn`. -/
def decodeFamilyF (x : Reg) (nn : Byte) : Except DecodeError Instr :=
  if nn = 0x07 then .ok (.ldVxDt x)
  else if nn = 0x0A then .ok (.ldVxK x)
  else if nn = 0x15 then .ok (.ldDtVx x)
  else if nn = 0x18 then .ok (.ldStVx x)
  else if nn = 0x1E then .ok (.addIVx x)
  else if nn = 0x29 then .ok (.ldIF x)
  else if nn = 0x33 then .ok (.bcd x)
  else if nn = 0x55 then .ok (.stor x)
  else if nn = 0x65 then .ok (.read x)
  else .error .familyF

/-- The decode function, total on the 65536 words (R94): by family, then by sub-selector. -/
def decodeWord (w : Word16) : Except DecodeError Instr :=
  match (fieldOp w).toNat with
  | 0x0 => if w = 0x00E0 then .ok .cls else if w = 0x00EE then .ok .ret else .error .family0
  | 0x1 => .ok (.jmp (fieldNNN w))
  | 0x2 => .ok (.call (fieldNNN w))
  | 0x3 => .ok (.se (fieldX w) (fieldNN w))
  | 0x4 => .ok (.sne (fieldX w) (fieldNN w))
  | 0x5 => if fieldN w = 0 then .ok (.seReg (fieldX w) (fieldY w)) else .error .family5
  | 0x6 => .ok (.ldImm (fieldX w) (fieldNN w))
  | 0x7 => .ok (.addImm (fieldX w) (fieldNN w))
  | 0x8 => decodeFamily8 (fieldX w) (fieldY w) (fieldN w)
  | 0x9 => if fieldN w = 0 then .ok (.sneReg (fieldX w) (fieldY w)) else .error .family9
  | 0xA => .ok (.ldI (fieldNNN w))
  | 0xB => .ok (.jmpV0 (fieldNNN w))
  | 0xC => .ok (.rnd (fieldX w) (fieldNN w))
  | 0xD => .ok (.draw (fieldX w) (fieldY w) (fieldN w))
  | 0xE => decodeFamilyE (fieldX w) (fieldNN w)
  | _ => decodeFamilyF (fieldX w) (fieldNN w)

/-- Decoding of bytes as Memory holds them: two bytes make the word (R90), the rest is handed back. -/
def decode : List Byte → Except DecodeError (Instr × List Byte)
  | hi :: lo :: rest =>
    match decodeWord (wordOfBytes hi lo) with
    | .ok i => .ok (i, rest)
    | .error e => .error e
  | [] => .error .tooShort
  | [_] => .error .tooShort

/-! ### Encoding (R92, R94) -/

/-- A register number as the 4 bits of its field. -/
def regBits (r : Reg) : Nibble := BitVec.ofFin (w := 4) r

/-- Format `NNN`. -/
def encNNN (op : Nibble) (nnn : Addr) : Word16 := op ++ nnn

/-- Format `XNN`, and format `X` with a fixed `nn`. -/
def encXNN (op : Nibble) (x : Reg) (nn : Byte) : Word16 := op ++ regBits x ++ nn

/-- Format `XYN`, and format `XY` with a fixed `n`. -/
def encXYN (op : Nibble) (x y : Reg) (n : Nibble) : Word16 := op ++ regBits x ++ regBits y ++ n

/-- The word of an instruction, from the patterns of R94. -/
def encodeWord : Instr → Word16
  | .cls => 0x00E0
  | .ret => 0x00EE
  | .jmp nnn => encNNN 0x1 nnn
  | .call nnn => encNNN 0x2 nnn
  | .se x nn => encXNN 0x3 x nn
  | .sne x nn => encXNN 0x4 x nn
  | .seReg x y => encXYN 0x5 x y 0x0
  | .ldImm x nn => encXNN 0x6 x nn
  | .addImm x nn => encXNN 0x7 x nn
  | .mov x y => encXYN 0x8 x y 0x0
  | .orReg x y => encXYN 0x8 x y 0x1
  | .andReg x y => encXYN 0x8 x y 0x2
  | .xorReg x y => encXYN 0x8 x y 0x3
  | .addReg x y => encXYN 0x8 x y 0x4
  | .sub x y => encXYN 0x8 x y 0x5
  | .shr x y => encXYN 0x8 x y 0x6
  | .subn x y => encXYN 0x8 x y 0x7
  | .shl x y => encXYN 0x8 x y 0xE
  | .sneReg x y => encXYN 0x9 x y 0x0
  | .ldI nnn => encNNN 0xA nnn
  | .jmpV0 nnn => encNNN 0xB nnn
  | .rnd x nn => encXNN 0xC x nn
  | .draw x y n => encXYN 0xD x y n
  | .skp x => encXNN 0xE x 0x9E
  | .sknp x => encXNN 0xE x 0xA1
  | .ldVxDt x => encXNN 0xF x 0x07
  | .ldVxK x => encXNN 0xF x 0x0A
  | .ldDtVx x => encXNN 0xF x 0x15
  | .ldStVx x => encXNN 0xF x 0x18
  | .addIVx x => encXNN 0xF x 0x1E
  | .ldIF x => encXNN 0xF x 0x29
  | .bcd x => encXNN 0xF x 0x33
  | .stor x => encXNN 0xF x 0x55
  | .read x => encXNN 0xF x 0x65

/-- The bytes of an instruction in the order Memory holds them (R65, R90). -/
def encode (i : Instr) : List Byte := bytesOfWord (encodeWord i)

/-! ### The opcode map as data (R94) -/

/-- One row of the map of R94: a word `w` is this instruction exactly when `w & mask = bits`. -/
structure OpRow where
  mnemonic : String
  bits : Word16
  mask : Word16
deriving DecidableEq, Repr

/-- The map of R94, row by row, as spec/opcode_table.json has it. -/
def opcodeTable : List OpRow :=
  [⟨"CLS", 0x00E0, 0xFFFF⟩, ⟨"RET", 0x00EE, 0xFFFF⟩, ⟨"JMP", 0x1000, 0xF000⟩] ++
  [⟨"CALL", 0x2000, 0xF000⟩, ⟨"SE", 0x3000, 0xF000⟩, ⟨"SNE", 0x4000, 0xF000⟩] ++
  [⟨"SE_reg", 0x5000, 0xF00F⟩, ⟨"LD_imm", 0x6000, 0xF000⟩, ⟨"ADD_imm", 0x7000, 0xF000⟩] ++
  [⟨"MOV", 0x8000, 0xF00F⟩, ⟨"OR", 0x8001, 0xF00F⟩, ⟨"AND", 0x8002, 0xF00F⟩] ++
  [⟨"XOR", 0x8003, 0xF00F⟩, ⟨"ADD_reg", 0x8004, 0xF00F⟩, ⟨"SUB", 0x8005, 0xF00F⟩] ++
  [⟨"SHR", 0x8006, 0xF00F⟩, ⟨"SUBN", 0x8007, 0xF00F⟩, ⟨"SHL", 0x800E, 0xF00F⟩] ++
  [⟨"SNE_reg", 0x9000, 0xF00F⟩, ⟨"LD_I", 0xA000, 0xF000⟩, ⟨"JMP+V0", 0xB000, 0xF000⟩] ++
  [⟨"RND", 0xC000, 0xF000⟩, ⟨"DRAW", 0xD000, 0xF000⟩, ⟨"SKP", 0xE09E, 0xF0FF⟩] ++
  [⟨"SKNP", 0xE0A1, 0xF0FF⟩, ⟨"LD_Vx_DT", 0xF007, 0xF0FF⟩, ⟨"LD_Vx_K", 0xF00A, 0xF0FF⟩] ++
  [⟨"LD_DT_Vx", 0xF015, 0xF0FF⟩, ⟨"LD_ST_Vx", 0xF018, 0xF0FF⟩, ⟨"ADD_I_Vx", 0xF01E, 0xF0FF⟩] ++
  [⟨"LD_I_F", 0xF029, 0xF0FF⟩, ⟨"BCD", 0xF033, 0xF0FF⟩, ⟨"STOR", 0xF055, 0xF0FF⟩] ++
  [⟨"READ", 0xF065, 0xF0FF⟩]

/-- The row an instruction stands in, by its mnemonic (R94). -/
def Instr.mnemonic : Instr → String
  | .cls => "CLS"
  | .ret => "RET"
  | .jmp _ => "JMP"
  | .call _ => "CALL"
  | .se _ _ => "SE"
  | .sne _ _ => "SNE"
  | .seReg _ _ => "SE_reg"
  | .ldImm _ _ => "LD_imm"
  | .addImm _ _ => "ADD_imm"
  | .mov _ _ => "MOV"
  | .orReg _ _ => "OR"
  | .andReg _ _ => "AND"
  | .xorReg _ _ => "XOR"
  | .addReg _ _ => "ADD_reg"
  | .sub _ _ => "SUB"
  | .shr _ _ => "SHR"
  | .subn _ _ => "SUBN"
  | .shl _ _ => "SHL"
  | .sneReg _ _ => "SNE_reg"
  | .ldI _ => "LD_I"
  | .jmpV0 _ => "JMP+V0"
  | .rnd _ _ => "RND"
  | .draw _ _ _ => "DRAW"
  | .skp _ => "SKP"
  | .sknp _ => "SKNP"
  | .ldVxDt _ => "LD_Vx_DT"
  | .ldVxK _ => "LD_Vx_K"
  | .ldDtVx _ => "LD_DT_Vx"
  | .ldStVx _ => "LD_ST_Vx"
  | .addIVx _ => "ADD_I_Vx"
  | .ldIF _ => "LD_I_F"
  | .bcd _ => "BCD"
  | .stor _ => "STOR"
  | .read _ => "READ"

/-! ### The host's entry -/

/-- The word an instruction of `nbits` bits `w` is: one 16-bit word, the bits above `nbits` being 0. -/
def tableWord (nbits w : Nat) : Word16 := BitVec.ofNat 16 (w % 2 ^ nbits)

/-- The instruction the decoder reads from an opcode-table word, laid out as Memory holds it. -/
def decodeTableWord (nbits w : Nat) : Option Instr :=
  match decode (bytesOfWord (tableWord nbits w)) with
  | .ok (i, _) => some i
  | .error _ => none

end Sys2Proof
end

