-- ==== Sys2Proof/Config.lean ====
section
/-! DEFINITION. What the spec keeps fixed for one machine (parameters, R5), the values the environment supplies to a step (R263 to R266), and the free streams that stand for an environment nothing is known of. -/

namespace Sys2Proof

/-- The parameters of R5 that the spec leaves to the implementation (D2, D3, D7, D19; U1, U2, U11).
They are held in `State` and no step changes them, so a statement about every state speaks of every machine. -/
structure Params where
  /-- `STACK_DEPTH`, 16 .. 24 (D7). -/
  stackDepth : Nat
  /-- `DISP_W`, at least 8 (D19). -/
  dispW : Nat
  /-- `DISP_H`, at least 15 (D19). -/
  dispH : Nat
  /-- `GLYPH_BASE`, with `GLYPH_BASE + 80 <= MEM_SIZE` (D2). -/
  glyphBase : Nat
  /-- `GLYPH_ROM`, 80 bytes (D3). -/
  glyphRom : List Byte
deriving DecidableEq, Repr

/-- One event of a poll of the input source: `(k, pressed)` (R264). -/
structure KeyEvent where
  key : Key
  pressed : Bool
deriving DecidableEq, Repr

/-- `env.poll`: the answer of the input source to the poll of phase P2 (R264). -/
inductive Poll where
  /-- a finite, possibly empty, list of key events -/
  | events (l : List KeyEvent)
  /-- the quit signal -/
  | quit
deriving DecidableEq, Repr, Inhabited

/-- `env.wait_event`: the answer of the input source to one key-wait step (R265). -/
inductive WaitEvent where
  /-- the blocking call has not returned yet (the spec's `none`) -/
  | nothing
  /-- key `k` was released -/
  | keyup (k : Key)
  /-- the quit signal -/
  | quit
deriving DecidableEq, Repr, Inhabited

namespace Config

/-- `MEM_SIZE` (R5, R60): 4096 bytes, addresses 0x000 .. 0xFFF. -/
abbrev memSize : Nat := 4096

/-- `GLYPH_COUNT` times `GLYPH_BYTES` (R5, R63): the bytes of the glyph table. -/
abbrev glyphBytes : Nat := 80

/-- FREE VALUE (R263, D24): what the timer strobe says on its `k`-th sample, where the state holds no pending
sample. Nothing constrains it; see notes/assumptions/1.md. -/
opaque timerDue : Nat → Bool

/-- FREE VALUE (R264): what the input source answers to its `k`-th poll, where the state holds no pending answer.
Nothing constrains it; see notes/assumptions/1.md. -/
opaque poll : Nat → Poll

/-- FREE VALUE (R182, R266, D25): the `k`-th random byte, where the state holds no pending byte. Nothing constrains
it; see notes/assumptions/1.md. -/
opaque rand : Nat → Byte

/-- FREE VALUE (R265): what the input source answers to the `k`-th key-wait step, where the state holds no pending
answer. Nothing constrains it; see notes/assumptions/1.md. -/
opaque waitEvent : Nat → WaitEvent

end Config

end Sys2Proof
end

