-- ==== Sys2Proof/Machine/Initial.lean ====
section
/-! DEFINITION. What the state holds before anything runs (R36): the values this model takes for the parameters of R5, the glyph table, a blank display, and what an unwritten byte of Memory reads as. -/

namespace Sys2Proof.Machine

/-- The Display Surface: rows from 0, each a list of cells from column 0; `true` is lit (R28). -/
abbrev Grid := List (List Bool)

/-- The 80 bytes of the glyph table, glyph by glyph (R63; D3: the customary font, from general knowledge).
PRESUMED, notes/assumptions/3.md. -/
def glyphRom : List Byte :=
  [0xF0, 0x90, 0x90, 0x90, 0xF0, 0x20, 0x60, 0x20, 0x20, 0x70] ++
  [0xF0, 0x10, 0xF0, 0x80, 0xF0, 0xF0, 0x10, 0xF0, 0x10, 0xF0] ++
  [0x90, 0x90, 0xF0, 0x10, 0x10, 0xF0, 0x80, 0xF0, 0x10, 0xF0] ++
  [0xF0, 0x80, 0xF0, 0x90, 0xF0, 0xF0, 0x10, 0x20, 0x40, 0x40] ++
  [0xF0, 0x90, 0xF0, 0x90, 0xF0, 0xF0, 0x90, 0xF0, 0x10, 0xF0] ++
  [0xF0, 0x90, 0xF0, 0x90, 0x90, 0xE0, 0x90, 0xE0, 0x90, 0xE0] ++
  [0xF0, 0x80, 0x80, 0x80, 0xF0, 0xE0, 0x90, 0x90, 0x90, 0xE0] ++
  [0xF0, 0x80, 0xF0, 0x80, 0xF0, 0xF0, 0x80, 0xF0, 0x80, 0x80]

/-- The values R5 gives the parameters: `STACK_DEPTH` 16, a 64 x 32 display, `GLYPH_BASE` 0xFB0.
DESIGN CHOICE of the spec (D2, D7, D19), notes/assumptions/2.md. -/
def defaultParams : Params where
  stackDepth := 16
  dispW := 64
  dispH := 32
  glyphBase := 0xFB0
  glyphRom := glyphRom

/-- A display with no lit cell (R36). -/
def blankGrid (p : Params) : Grid := List.replicate p.dispH (List.replicate p.dispW false)

/-- What a byte of Memory that nothing has written since reset reads as: the glyph table at `GLYPH_BASE`, 0x00
elsewhere (R36, R320). -/
def resetByte (p : Params) (a : Nat) : Byte :=
  if p.glyphBase ≤ a then p.glyphRom.getD (a - p.glyphBase) 0 else 0

end Sys2Proof.Machine
end

