-- ==== Sys2Proof/Machine/State.lean ====
section
/-! DEFINITION. The state of the machine (R20 to R37) as plain data, the outputs and pending inputs of its boundary (R270), and the state right after reset (R36, R320). -/

namespace Sys2Proof.Machine

/-- The four faults of the hardware (R290), the closed set of values of `CAUSE` beside `NoFault`. Each is TAKEN as the spec's
fault entry (R295, `raise` in Machine/Ops.lean): the answer is a next state with `CAUSE` set and the run stopped, so
no step of this machine ever ends in `Host.Outcome.fault`. -/
inductive Fault where
  /-- code 1; raised by the decode phase P4 for a word that is no instruction (R291). Safe: the spec's own fault. -/
  | illegalOpcode
  /-- code 2; raised by CALL when `SP = STACK_DEPTH` (R292). Safe: the spec's own fault. -/
  | stackOverflow
  /-- code 3; raised by RET when `SP = 0` (R293). Safe: the spec's own fault. -/
  | stackUnderflow
  /-- code 4; raised by BCD, STOR, READ and DRAW when the highest address lies outside Memory (R294). Safe: the
  spec's own fault. -/
  | outOfRange
deriving DecidableEq, Repr

/-- Why an instruction has no meaning. -/
inductive Refusal where
  /-- raised by an arm of `exec` whose instruction has no meaning yet, by its mnemonic; every arm has one, so nobody
  raises it. Safe: the machine stops. -/
  | notModelled (mnemonic : String)
deriving DecidableEq, Repr

/-- `RS`, the run-state register of the Dispatcher (R31). -/
inductive RunState where
  /-- no run in progress -/
  | stopped
  /-- cycles execute -/
  | running
  /-- LD Vx,K waits for a key-up -/
  | waitk
deriving DecidableEq, Repr

/-- `STOP_REASON`, why the last run ended (R33). -/
inductive StopReason where
  /-- no run has ended since reset or since the last `run` -/
  | none
  | quit
  /-- natural halt -/
  | halt
  | fault
deriving DecidableEq, Repr

/-- Memory in one canonical form: cells in strictly rising order of address, none equal to what an unlisted
address reads as (`Memory.wf`). -/
abbrev Memory := List Host.Cell

/-- A command of the host (R261). -/
inductive HostCmd where
  /-- `reset` (R320) -/
  | reset
  /-- `load(offset, bytes)` (R70) -/
  | load (offset : Nat) (bytes : List Byte)
  /-- `run(entry)` (R262) -/
  | run (entry : Addr)
deriving DecidableEq, Repr

/-- What `load` returns to the host (R70). -/
inductive LoadReply where
  | ok
  | outOfRange
deriving DecidableEq, Repr

/-- One input of the machine: the samples already known, oldest first, and how many samples have been taken. When none is
pending the next sample is a free value. -/
structure Port (α : Type) where
  pending : List α
  drawn : Nat
deriving DecidableEq, Repr

/-- What crosses the boundary of the CORE (R270): the MODEL's own fields, no register of the hardware. -/
structure Env where
  /-- `env.timer_due`, sampled in P1 of every cycle (R263) -/
  timerDue : Port Bool
  /-- `env.poll`, sampled in P2 of every cycle (R264) -/
  poll : Port Poll
  /-- `env.rand`, one byte per executed RND (R266) -/
  rand : Port Byte
  /-- `env.wait_event`, sampled in every key-wait step (R265) -/
  waitEvent : Port WaitEvent
  /-- host commands waiting for `RS = STOPPED`, oldest first (R261) -/
  host : List HostCmd
  /-- the `present` events so far, newest first, each with the grid it carries (R267) -/
  presented : List Grid
  /-- the answers to `load` so far, newest first (R70) -/
  replies : List LoadReply
deriving DecidableEq, Repr

/-- Everything the spec gives the machine. -/
structure State where
  /-- the parameters of R5, changed by no step -/
  params : Params
  /-- `V[0]` .. `V[15]` (R20); `V[15]` is `VF` (R21) -/
  v : Vector Byte 16
  /-- `I`, 12 bits (R24) -/
  i : Addr
  /-- `PC`, 16 bits (R23) -/
  pc : Word16
  /-- `SP`, the number of live stack entries (R25) -/
  sp : Nat
  /-- `STACK[0]` .. `STACK[STACK_DEPTH-1]` (R26) -/
  stack : List Word16
  /-- `MEM` (R27, R60) -/
  mem : Memory
  /-- `FB` (R28) -/
  fb : Grid
  /-- `DT` (R29) -/
  dt : Byte
  /-- `ST` (R29) -/
  st : Byte
  /-- `KEYS` (R30) -/
  keys : Word16
  /-- `RS` (R31) -/
  rs : RunState
  /-- `IR` (R32) -/
  ir : Word16
  /-- `IADDR` (R32) -/
  iaddr : Word16
  /-- `STOP_REASON` (R33) -/
  stopReason : StopReason
  /-- `CAUSE` (R33); `none` is `NoFault` -/
  cause : Option Fault
  /-- the boundary of the CORE -/
  env : Env
deriving DecidableEq, Repr

/-- An input from which nothing has been sampled and of which nothing is known. -/
def Port.fresh {α : Type} : Port α := { pending := [], drawn := 0 }

/-- The machine right after reset, which is also the machine at power-on (R36, R320, R321). The one `present` of the reset
(R320, D28) is the only output so far. -/
def State.reset : State where
  params := defaultParams
  v := Vector.replicate 16 0
  i := 0
  pc := 0
  sp := 0
  stack := List.replicate defaultParams.stackDepth 0
  mem := []
  fb := blankGrid defaultParams
  dt := 0
  st := 0
  keys := 0
  rs := .stopped
  ir := 0
  iaddr := 0
  stopReason := .none
  cause := none
  env :=
    { timerDue := Port.fresh
      poll := Port.fresh
      rand := Port.fresh
      waitEvent := Port.fresh
      host := []
      presented := [blankGrid defaultParams]
      replies := [] }

end Sys2Proof.Machine
end

