-- ==== Sys2Proof/Machine/Ops.lean ====
section
/-! DEFINITION. The named operations over the state that the meanings are written with: one update per field, Memory (R60 to R69), the call stack (R26), the ends of a run and the start of one (R121, R262, R295), the outputs and the inputs (R263 to R267). -/

namespace Sys2Proof.Machine

/-- What executing one instruction answers. -/
abbrev Result := Host.Outcome State Fault Refusal

/-! ### One update per field -/

/-- Write the register file. -/
def State.setV (s : State) (v : Vector Byte 16) : State := { s with v := v }

/-- Write `I`. -/
def State.setI (s : State) (i : Addr) : State := { s with i := i }

/-- Write `PC`. -/
def State.setPc (s : State) (pc : Word16) : State := { s with pc := pc }

/-- Write `SP`. -/
def State.setSp (s : State) (sp : Nat) : State := { s with sp := sp }

/-- Write the call stack. -/
def State.setStack (s : State) (stack : List Word16) : State := { s with stack := stack }

/-- Write `MEM`. -/
def State.setMem (s : State) (mem : Memory) : State := { s with mem := mem }

/-- Write `FB`. -/
def State.setFb (s : State) (fb : Grid) : State := { s with fb := fb }

/-- Write `DT`. -/
def State.setDt (s : State) (dt : Byte) : State := { s with dt := dt }

/-- Write `ST`. -/
def State.setSt (s : State) (st : Byte) : State := { s with st := st }

/-- Write `KEYS`. -/
def State.setKeys (s : State) (keys : Word16) : State := { s with keys := keys }

/-- Write `RS`. -/
def State.setRs (s : State) (rs : RunState) : State := { s with rs := rs }

/-- Write `IR` and `IADDR`, the pair a fetch records (R32). -/
def State.setFetched (s : State) (ir iaddr : Word16) : State := { s with ir := ir, iaddr := iaddr }

/-- Write `STOP_REASON` and `CAUSE`, the stop record (R33). -/
def State.setRecord (s : State) (r : StopReason) (c : Option Fault) : State := { s with stopReason := r, cause := c }

/-- Write the boundary fields. -/
def State.setEnv (s : State) (env : Env) : State := { s with env := env }

/-! ### Memory -/

/-- `MEM[a]`: the listed byte, else what reset leaves there. -/
def Memory.read (p : Params) (m : Memory) (a : Nat) : Byte :=
  match m with
  | [] => resetByte p a
  | (k, b) :: rest => if k = a then b else Memory.read p rest a

/-- The cells with the one at `a` set to `b`, the order kept. -/
def Memory.put (m : Memory) (a : Nat) (b : Byte) : Memory :=
  match m with
  | [] => [(a, b)]
  | (k, c) :: rest =>
    if a < k then (a, b) :: (k, c) :: rest
    else if a = k then (a, b) :: rest
    else (k, c) :: Memory.put rest a b

/-- The cells without the one at `a`. -/
def Memory.drop (m : Memory) (a : Nat) : Memory := m.filter fun c => decide (c.1 ≠ a)

/-- `MEM[a] <- b`, the canonical form kept: a byte equal to what an unlisted address reads as is not listed. -/
def Memory.write (p : Params) (m : Memory) (a : Nat) (b : Byte) : Memory :=
  if b = resetByte p a then Memory.drop m a else Memory.put m a b

/-- The canonical form: addresses strictly rising and inside Memory (R60), no cell equal to what an unlisted
address reads as. -/
abbrev Memory.wf (p : Params) (m : Memory) : Prop :=
  m.Pairwise (fun c d => c.1 < d.1) ∧ ∀ c ∈ m, c.1 < Config.memSize ∧ c.2 ≠ resetByte p c.1

/-- The bytes `bs` written at `a`, `a+1`, ... in ascending order (R71). -/
def Memory.writeList (p : Params) (m : Memory) (a : Nat) : List Byte → Memory
  | [] => m
  | b :: bs => Memory.writeList p (Memory.write p m a b) (a + 1) bs

/-- The `n` bytes at `a`, `a+1`, .... -/
def Memory.readList (p : Params) (m : Memory) (a : Nat) : Nat → List Byte
  | 0 => []
  | n + 1 => Memory.read p m a :: Memory.readList p m (a + 1) n

/-- The byte of Memory at `a`. -/
def State.byte (s : State) (a : Nat) : Byte := Memory.read s.params s.mem a

/-- `MemRead` of `n` bytes from `a` (R61, R68): the whole range is checked, without wrapping, before anything
happens (R69); `none` is `OutOfRange`. -/
def loadBytes (s : State) (a n : Nat) : Option (List Byte) :=
  if a + n ≤ Config.memSize then some (Memory.readList s.params s.mem a n) else none

/-- `MemWrite` of the bytes `bs` from `a` on (R61, R68): the whole range is checked before anything is written (R69, R70);
`none` is `OutOfRange`. -/
def storeBytes (s : State) (a : Nat) (bs : List Byte) : Option State :=
  if a + bs.length ≤ Config.memSize then some (s.setMem (Memory.writeList s.params s.mem a bs)) else none

/-- `MemRead(a, 2)`: the big-endian word of an instruction fetch (R61, R65). -/
def fetchWord (s : State) (a : Nat) : Option Word16 :=
  match loadBytes s a 2 with
  | some [hi, lo] => some (wordOfBytes hi lo)
  | _ => none

/-! ### The call stack -/

/-- `push(a)` (R26); `none` is `StackOverflow`. -/
def push (a : Word16) (s : State) : Option State :=
  if s.sp = s.params.stackDepth then none
  else some ((s.setStack (s.stack.set s.sp a)).setSp (s.sp + 1))

/-- `pop()` (R26); `none` is `StackUnderflow`. The popped entry stays in the array. -/
def pop (s : State) : Option (Word16 × State) :=
  if s.sp = 0 then none
  else some (s.stack.getD (s.sp - 1) 0, s.setSp (s.sp - 1))

/-! ### The ends of a run, and the start of one -/

/-- `CAUSE` as the number R290 gives it. -/
def causeCode : Option Fault → Nat
  | none => 0
  | some .illegalOpcode => 1
  | some .stackOverflow => 2
  | some .stackUnderflow => 3
  | some .outOfRange => 4

/-- FAULT ENTRY (R295): `CAUSE`, `STOP_REASON` and `RS` are written. `IADDR`, `IR` and `PC` keep what the fetch and
the advance left, and nothing else changes. There is no handler. -/
def raise (f : Fault) (s : State) : Result := .next ((s.setRecord .fault (some f)).setRs .stopped)

/-- The end of a run that is no fault: natural halt (R123) or quit (R125, R130). `CAUSE` is not written. -/
def stop (r : StopReason) (s : State) : State := (s.setRecord r s.cause).setRs .stopped

/-- THE ONLY WAY ON AFTER A FAULT (R299) or any other stop: the host's `run(entry)` (R262) clears the stop record
and starts a fresh run. -/
def startRun (entry : Addr) (s : State) : State :=
  ((s.setPc (zext16 entry)).setRecord .none none).setRs .running

/-! ### Outputs and inputs -/

/-- `emit present` with the grid as it is now (R267). -/
def present (s : State) : State := s.setEnv { s.env with presented := s.fb :: s.env.presented }

/-- Take one sample of an input: the oldest pending one, else the free value `free` has for this sample. -/
def Port.draw {α : Type} (free : Nat → α) (p : Port α) : α × Port α :=
  match p.pending with
  | [] => (free p.drawn, { pending := [], drawn := p.drawn + 1 })
  | a :: rest => (a, { pending := rest, drawn := p.drawn + 1 })

/-- Sample `env.timer_due` (R263). -/
def drawTimerDue (s : State) : Bool × State :=
  let r := s.env.timerDue.draw Config.timerDue
  (r.1, s.setEnv { s.env with timerDue := r.2 })

/-- Sample `env.poll` (R264). -/
def drawPoll (s : State) : Poll × State :=
  let r := s.env.poll.draw Config.poll
  (r.1, s.setEnv { s.env with poll := r.2 })

/-- Draw `env.rand` (R266). -/
def drawRand (s : State) : Byte × State :=
  let r := s.env.rand.draw Config.rand
  (r.1, s.setEnv { s.env with rand := r.2 })

/-- Sample `env.wait_event` (R265). -/
def drawWaitEvent (s : State) : WaitEvent × State :=
  let r := s.env.waitEvent.draw Config.waitEvent
  (r.1, s.setEnv { s.env with waitEvent := r.2 })

end Sys2Proof.Machine
end

