-- ==== Sys2Proof/Machine/Operands.lean ====
section
/-! DEFINITION. The operand forms (R93, R206): the general registers, the block V[0] .. V[x], the address I + k, the program counter's skip, the key a register selects, the glyph a register selects. -/

namespace Sys2Proof.Machine

/-- `V[x]` (R8, R20). -/
def readV (s : State) (x : Reg) : Byte := s.v[x.val]

/-- `V[x] <- b` (R8, R20). No register is hard-wired. -/
def writeV (s : State) (x : Reg) (b : Byte) : State := s.setV (s.v.set x.val b)

/-- The block `V[0]` .. `V[x]`, ascending (R204). -/
def readBlock (s : State) (x : Reg) : List Byte := s.v.toList.take (x.val + 1)

/-- The bytes `bs` written to the registers from number `k` on, ascending (R205). -/
def setRegs (v : Vector Byte 16) (k : Nat) : List Byte → Vector Byte 16
  | [] => v
  | b :: bs => setRegs (v.setIfInBounds k b) (k + 1) bs

/-- The effective address `I + k`, not wrapped (R68, R206). -/
def ea (s : State) (k : Nat) : Nat := s.i.toNat + k

/-- `skip`: one more advance of `PC` by 2 (R129). -/
def skip (s : State) : State := s.setPc (s.pc + 2)

/-- `skip` when the condition holds (R153 to R156). -/
def skipIf (c : Bool) (s : State) : State := if c then skip s else s

/-- The key a register value selects: its low 4 bits (R243, D20). DESIGN CHOICE of the spec,
notes/assumptions/7.md. -/
def keyOf (b : Byte) : Key := Fin.ofNat 16 b.toNat

/-- `KEYS[k]` (R30). -/
def keyDown (s : State) (k : Key) : Bool := s.keys.getLsbD k.val

/-- The glyph address of a register value: `(GLYPH_BASE + 5 * V[x]) mod 4096`, the digit not masked (R202, D14). -/
def glyphAddr (p : Params) (b : Byte) : Addr := BitVec.ofNat 12 (p.glyphBase + 5 * b.toNat)

end Sys2Proof.Machine
end

