-- ==== Sys2Proof/Machine/Flags.lean ====
section
/-! DEFINITION. The flag VF and every computation of it (R21, R22, R170): the value is 0x00 or 0x01 and is written last. -/

namespace Sys2Proof.Machine

/-- `VF`, general register 15 (R21). -/
def vf : Reg := 15

/-- A flag as the byte it is written as: 0x00 or 0x01 (R21). -/
def flagByte (c : Bool) : Byte := if c then 1 else 0

/-- Write the flag into `VF`, the last step of an instruction (R22). -/
def writeFlag (s : State) (c : Bool) : State := writeV s vf (flagByte c)

/-- Write a result to `V[x]` and then the flag to `VF`: with `x = 15` the result is lost (R22). -/
def writeResultFlag (s : State) (x : Reg) (b : Byte) (c : Bool) : State := writeFlag (writeV s x b) c

/-- The 9-bit sum of two bytes (R177). -/
def sum9 (a b : Byte) : BitVec 9 := a.setWidth 9 + b.setWidth 9

/-- Carry out of the addition of two bytes: bit 8 of the 9-bit sum (R170, R177). -/
def carry (a b : Byte) : Bool := (sum9 a b).getLsbD 8

/-- No borrow in `a - b`: `a >= b`, unsigned (R170, R178, R180). -/
def noBorrow (a b : Byte) : Bool := decide (b.toNat ≤ a.toNat)

/-- The bit a right shift by one moves out (R179). -/
def lowBit (a : Byte) : Bool := a.getLsbD 0

/-- The bit a left shift by one moves out (R181). -/
def highBit (a : Byte) : Bool := a.getLsbD 7

/-- The 13-bit sum of `I` and a byte (R201). -/
def sum13 (i : Addr) (b : Byte) : BitVec 13 := i.setWidth 13 + b.setWidth 13

/-- The sum of `I` and a byte exceeds the 12-bit range (R201). -/
def addrOverflow (i : Addr) (b : Byte) : Bool := decide (0xFFF < (sum13 i b).toNat)

end Sys2Proof.Machine
end

