-- ==== Sys2Proof/Machine/Alu.lean ====
section
/-! DEFINITION. Register load, arithmetic, logic, shift and random instructions (spec/42_alu.md). All sources are read before any write (R22). -/

namespace Sys2Proof.Machine

/-- `6xnn` LD imm (R171). -/
def execLdImm (x : Reg) (nn : Byte) (s : State) : Result := .next (writeV s x nn)

/-- `7xnn` ADD imm (R172): wraps modulo 256, no flag. -/
def execAddImm (x : Reg) (nn : Byte) (s : State) : Result := .next (writeV s x (readV s x + nn))

/-- `8xy0` MOV (R173). -/
def execMov (x y : Reg) (s : State) : Result := .next (writeV s x (readV s y))

/-- `8xy1` OR (R174); `VF` is not touched. -/
def execOrReg (x y : Reg) (s : State) : Result := .next (writeV s x (readV s x ||| readV s y))

/-- `8xy2` AND (R175); `VF` is not touched. -/
def execAndReg (x y : Reg) (s : State) : Result := .next (writeV s x (readV s x &&& readV s y))

/-- `8xy3` XOR (R176); `VF` is not touched. -/
def execXorReg (x y : Reg) (s : State) : Result := .next (writeV s x (readV s x ^^^ readV s y))

/-- `8xy4` ADD reg (R177): `s[7:0]` of the 9-bit sum, and its bit 8 as the flag. -/
def execAddReg (x y : Reg) (s : State) : Result :=
  .next (writeResultFlag s x ((sum9 (readV s x) (readV s y)).setWidth 8) (carry (readV s x) (readV s y)))

/-- `8xy5` SUB (R178). -/
def execSub (x y : Reg) (s : State) : Result :=
  .next (writeResultFlag s x (readV s x - readV s y) (noBorrow (readV s x) (readV s y)))

/-- `8xy6` SHR (R179); `y` is ignored (R96). -/
def execShr (x _y : Reg) (s : State) : Result :=
  .next (writeResultFlag s x (readV s x >>> 1) (lowBit (readV s x)))

/-- `8xy7` SUBN (R180). -/
def execSubn (x y : Reg) (s : State) : Result :=
  .next (writeResultFlag s x (readV s y - readV s x) (noBorrow (readV s y) (readV s x)))

/-- `8xyE` SHL (R181); `y` is ignored (R96). -/
def execShl (x _y : Reg) (s : State) : Result :=
  .next (writeResultFlag s x (readV s x <<< 1) (highBit (readV s x)))

/-- `Cxnn` RND (R182): one fresh byte of the environment, masked. -/
def execRnd (x : Reg) (nn : Byte) (s : State) : Result :=
  let r := drawRand s
  .next (writeV r.2 x (r.1 &&& nn))

end Sys2Proof.Machine
end

