-- ==== Sys2Proof/Machine/Display.lean ====
section
/-! DEFINITION. Display instructions and the sprite blitter (spec/44_display.md). -/

namespace Sys2Proof.Machine

/-- `FB[r][c]` (R28). -/
def Grid.cell (g : Grid) (r c : Nat) : Bool := (g.getD r []).getD c false

/-- `FB[r][c] <- FB[r][c] ^ bit` (R224). -/
def Grid.xorCell (g : Grid) (r c : Nat) (bit : Bool) : Grid :=
  g.modify r fun row => row.modify c fun old => old ^^ bit

/-- One pixel of a sprite: the cell it lands on and its bit. -/
structure Pixel where
  row : Nat
  col : Nat
  bit : Bool
deriving DecidableEq, Repr

/-- The 8 pixels of one sprite row on grid row `r`: bit 7 is the leftmost (R222), columns wrap (R223). -/
def rowPixels (p : Params) (px r : Nat) (b : Byte) : List Pixel :=
  (List.range 8).map fun col => { row := r, col := (px + col) % p.dispW, bit := b.getLsbD (7 - col) }

/-- The pixels of a sprite whose next row is number `row`, rows downward and wrapping (R222, R223). -/
def spritePixels (p : Params) (px py : Nat) (row : Nat) : List Byte → List Pixel
  | [] => []
  | b :: bs => rowPixels p px ((py + row) % p.dispH) b ++ spritePixels p px py (row + 1) bs

/-- The XOR of every pixel into the display, in order (R224). -/
def blit (g : Grid) (ps : List Pixel) : Grid := ps.foldl (fun g q => g.xorCell q.row q.col q.bit) g

/-- Some pixel of the sprite is 1 on a cell lit before the DRAW (R224). -/
def collides (g : Grid) (ps : List Pixel) : Bool := ps.any fun q => q.bit && g.cell q.row q.col

/-- The pixels DRAW works on: the sprite `bs` at column `V[x]` and row `V[y]` (R221). -/
def drawPixels (x y : Reg) (bs : List Byte) (s : State) : List Pixel :=
  spritePixels s.params (readV s x).toNat (readV s y).toNat 0 bs

/-- `00E0` CLS (R220). -/
def execCls (s : State) : Result := .next (present (s.setFb (blankGrid s.params)))

/-- `Dxyn` DRAW (R221): the `n` bytes at `I` are the sprite (D17); `VF` is written last. -/
def execDraw (x y : Reg) (n : Nibble) (s : State) : Result :=
  match loadBytes s (ea s 0) n.toNat with
  | none => raise .outOfRange s
  | some bs =>
    .next (writeFlag (present (s.setFb (blit s.fb (drawPixels x y bs s)))) (collides s.fb (drawPixels x y bs s)))

end Sys2Proof.Machine
end

