-- ==== Sys2Proof/Machine/Flow.lean ====
section
/-! DEFINITION. Control-flow instructions (spec/41_flow.md). Each runs in P5 with `PC` already equal to `IADDR + 2`. -/

namespace Sys2Proof.Machine

/-- `00EE` RET (R150). -/
def execRet (s : State) : Result :=
  match pop s with
  | none => raise .stackUnderflow s
  | some (a, t) => .next (t.setPc a)

/-- `1nnn` JMP (R151). -/
def execJmp (nnn : Addr) (s : State) : Result := .next (s.setPc (zext16 nnn))

/-- `2nnn` CALL (R152): the return address pushed is `PC`, already the address of the next instruction. -/
def execCall (nnn : Addr) (s : State) : Result :=
  match push s.pc s with
  | none => raise .stackOverflow s
  | some t => .next (t.setPc (zext16 nnn))

/-- `3xnn` SE (R153). -/
def execSe (x : Reg) (nn : Byte) (s : State) : Result := .next (skipIf (decide (readV s x = nn)) s)

/-- `4xnn` SNE (R154). -/
def execSne (x : Reg) (nn : Byte) (s : State) : Result := .next (skipIf (decide (readV s x ≠ nn)) s)

/-- `5xy0` SE reg (R155). -/
def execSeReg (x y : Reg) (s : State) : Result := .next (skipIf (decide (readV s x = readV s y)) s)

/-- `9xy0` SNE reg (R156). -/
def execSneReg (x y : Reg) (s : State) : Result := .next (skipIf (decide (readV s x ≠ readV s y)) s)

/-- `Bnnn` JMP+V0 (R157): the 13-bit sum, not wrapped; no register is written and no random byte consumed. -/
def execJmpV0 (nnn : Addr) (s : State) : Result := .next (s.setPc (zext16 nnn + (readV s 0).setWidth 16))

end Sys2Proof.Machine
end

