-- ==== Sys2Proof/Machine/IndexMemory.lean ====
section
/-! DEFINITION. Address-register and memory instructions (spec/43_index_memory.md). `I` is not changed by the three that access Memory (D15). -/

namespace Sys2Proof.Machine

/-- The three decimal digits of a byte, hundreds first (R203). -/
def bcdDigits (b : Byte) : List Byte :=
  [BitVec.ofNat 8 (b.toNat / 100), BitVec.ofNat 8 (b.toNat / 10 % 10), BitVec.ofNat 8 (b.toNat % 10)]

/-- `Annn` LD I (R200). -/
def execLdI (nnn : Addr) (s : State) : Result := .next (s.setI nnn)

/-- `Fx1E` ADD I,Vx (R201): `s[11:0]` of the 13-bit sum; the flag is written last. -/
def execAddIVx (x : Reg) (s : State) : Result :=
  .next (writeFlag (s.setI ((sum13 s.i (readV s x)).setWidth 12)) (addrOverflow s.i (readV s x)))

/-- `Fx29` LD I,F (R202). -/
def execLdIF (x : Reg) (s : State) : Result := .next (s.setI (glyphAddr s.params (readV s x)))

/-- `Fx33` BCD (R203). -/
def execBcd (x : Reg) (s : State) : Result :=
  match storeBytes s (ea s 0) (bcdDigits (readV s x)) with
  | none => raise .outOfRange s
  | some t => .next t

/-- `Fx55` STOR (R204): `x` is a count. -/
def execStor (x : Reg) (s : State) : Result :=
  match storeBytes s (ea s 0) (readBlock s x) with
  | none => raise .outOfRange s
  | some t => .next t

/-- `Fx65` READ (R205): `x` is a count. -/
def execRead (x : Reg) (s : State) : Result :=
  match loadBytes s (ea s 0) (x.val + 1) with
  | none => raise .outOfRange s
  | some bs => .next (s.setV (setRegs s.v 0 bs))

end Sys2Proof.Machine
end

