-- ==== Sys2Proof/Machine/TimersInput.lean ====
section
/-! DEFINITION. Timer and keyboard instructions (spec/45_timers_input.md). -/

namespace Sys2Proof.Machine

/-- `Fx07` LD Vx,DT (R240). -/
def execLdVxDt (x : Reg) (s : State) : Result := .next (writeV s x s.dt)

/-- `Fx15` LD DT,Vx (R241). -/
def execLdDtVx (x : Reg) (s : State) : Result := .next (s.setDt (readV s x))

/-- `Fx18` LD ST,Vx (R242). -/
def execLdStVx (x : Reg) (s : State) : Result := .next (s.setSt (readV s x))

/-- The consuming query of both key skips (R243, R244): is the key's bit set, and the state with the whole latch
cleared if it is. -/
def queryKey (s : State) (k : Key) : Bool × State := if keyDown s k then (true, s.setKeys 0) else (false, s)

/-- `Ex9E` SKP (R243). -/
def execSkp (x : Reg) (s : State) : Result :=
  let q := queryKey s (keyOf (readV s x))
  .next (skipIf q.1 q.2)

/-- `ExA1` SKNP (R244). -/
def execSknp (x : Reg) (s : State) : Result :=
  let q := queryKey s (keyOf (readV s x))
  .next (skipIf (!q.1) q.2)

/-- `Fx0A` LD Vx,K (R245): the cycle ends in `WAITK`; `IR[11:8]`, kept from the fetch, names the destination (R32). -/
def execLdVxK (_x : Reg) (s : State) : Result := .next (s.setRs .waitk)

end Sys2Proof.Machine
end

