-- ==== Sys2Proof/Machine/Cycle.lean ====
section
/-! DEFINITION. The phases of a cycle (R122 to R128) and the key-wait step (R130). -/

namespace Sys2Proof.Machine

/-- The condition of the natural halt: `PC > MEM_SIZE - 2` (R123). -/
def pcHalts (s : State) : Bool := decide (Config.memSize - 2 < s.pc.toNat)

/-- One decrement of a timer, floored at 0 (R124). -/
def countDown (b : Byte) : Byte := if b = 0 then 0 else b - 1

/-- P1, tick (R124): both timers share the strobe. -/
def tick (s : State) : State :=
  let r := drawTimerDue s
  if r.1 then (r.2.setDt (countDown s.dt)).setSt (countDown s.st) else r.2

/-- One event of a poll: a press sets the key's bit, a release changes nothing (R125, D22). -/
def latchEvent (keys : Word16) (e : KeyEvent) : Word16 :=
  if e.pressed then keys ||| ((1 : Word16) <<< e.key.val) else keys

/-- P2, refresh, of a poll that is not quit (R125): every press is ORed into `KEYS`. -/
def latch (l : List KeyEvent) (s : State) : State := s.setKeys (l.foldl latchEvent s.keys)

/-- P3 and the advance of P4 (R126, R127): `IADDR` and `IR` record the fetch and `PC` moves past it. -/
def advance (w : Word16) (s : State) : State := (s.setFetched w s.pc).setPc (s.pc + 2)

/-- P4 decode and P5 execute of the word fetched (R127, R128). -/
def decodeExecute (w : Word16) (s : State) : Result :=
  match decodeWord w with
  | .ok i => exec i s
  | .error _ => raise .illegalOpcode s

/-- P3 to P5. The fetch cannot leave Memory after P0 (R126); `MemRead` outside it would be `OutOfRange` (R61). -/
def fetchExecute (s : State) : Result :=
  match fetchWord s s.pc.toNat with
  | some w => decodeExecute w (advance w s)
  | none => raise .outOfRange s

/-- P2 to P5: a quit ends the cycle before the fetch (R125). -/
def refreshExecute (s : State) : Result :=
  let r := drawPoll s
  match r.1 with
  | .quit => .next (stop .quit r.2)
  | .events l => fetchExecute (latch l r.2)

/-- One cycle (R122), P0 to P5; P0 is the natural halt (R123). -/
def cycle (s : State) : Result := if pcHalts s then .next (stop .halt s) else refreshExecute (tick s)

/-- One key-wait step (R130): `IR[11:8]` names the destination register. -/
def waitStep (s : State) : Result :=
  let r := drawWaitEvent s
  match r.1 with
  | .nothing => .next r.2
  | .keyup k => .next ((writeV r.2 (fieldX s.ir) (BitVec.ofNat 8 k.val)).setRs .running)
  | .quit => .next (stop .quit r.2)

end Sys2Proof.Machine
end

