-- ==== Sys2Proof/Machine/HostCommands.lean ====
section
/-! DEFINITION. The host's three commands (R261), each one atomic operation on a stopped machine, and the stop report (R268). -/

namespace Sys2Proof.Machine

/-- `reset` (R320): every piece of state at the value of R36, the parameters kept, one `present` emitted. -/
def hostReset (s : State) : State :=
  present
    { s with
      v := Vector.replicate 16 0
      i := 0
      pc := 0
      sp := 0
      stack := List.replicate s.params.stackDepth 0
      mem := []
      fb := blankGrid s.params
      dt := 0
      st := 0
      keys := 0
      rs := .stopped
      ir := 0
      iaddr := 0
      stopReason := .none
      cause := none }

/-- Record what `load` returns to the host (R70). -/
def reply (r : LoadReply) (s : State) : State := s.setEnv { s.env with replies := r :: s.env.replies }

/-- `load(offset, bytes)` (R70): all bytes or none. Its `OutOfRange` is a return value, no fault of a run. -/
def hostLoad (offset : Nat) (bytes : List Byte) (s : State) : State :=
  match storeBytes s offset bytes with
  | some t => reply .ok t
  | none => reply .outOfRange s

/-- One host command (R261). -/
def hostCommand (c : HostCmd) (s : State) : State :=
  match c with
  | .reset => hostReset s
  | .load offset bytes => hostLoad offset bytes s
  | .run entry => startRun entry s

/-- What the stopped machine does: the oldest waiting host command, else nothing (R131, R261). -/
def hostStep (s : State) : Result :=
  match s.env.host with
  | [] => .next s
  | c :: rest => .next (hostCommand c (s.setEnv { s.env with host := rest }))

/-- The stop report a host reads (R268). -/
structure StopReport where
  stopReason : StopReason
  cause : Option Fault
  iaddr : Word16
  ir : Word16
deriving DecidableEq, Repr

/-- The report, readable while `RS = STOPPED` (R268). -/
def stopReport (s : State) : Option StopReport :=
  match s.rs with
  | .stopped => some { stopReason := s.stopReason, cause := s.cause, iaddr := s.iaddr, ir := s.ir }
  | .running => none
  | .waitk => none

end Sys2Proof.Machine
end

