-- ==== Sys2Proof/Machine/Step.lean ====
section
/-! DEFINITION. One step of the machine (R11, R121): a cycle, a key-wait step, or, while no run is in progress, one host command. -/

namespace Sys2Proof.Machine

/-- One step (R11): what happens is given by the run state (R121). -/
def step (s : State) : Host.Outcome State Fault Refusal :=
  match s.rs with
  | .stopped => hostStep s
  | .running => cycle s
  | .waitk => waitStep s

/-- Where `step` fetches next if it is made to: at `PC` in a run that can fetch, else at the conventional entry 0x200
(R62, R322). -/
def State.fetchEntry (s : State) : Addr :=
  if s.rs = .running ∧ pcHalts s = false then s.pc.setWidth 12 else 0x200

/-- The state whose very next step runs the instruction `w`: a `load` of its two bytes at the entry and a `run` from there
(R322), with the strobe of that cycle down and its poll empty, so that no quit comes before the fetch.
See notes/assumptions/5.md. -/
def State.withFetchWord (s : State) (nbits w : Nat) : State :=
  let e := s.fetchEntry
  let m := Memory.writeList s.params s.mem e.toNat (bytesOfWord (tableWord nbits w))
  let t := startRun e (s.setMem m)
  t.setEnv
    { t.env with
      timerDue := { t.env.timerDue with pending := false :: t.env.timerDue.pending }
      poll := { t.env.poll with pending := .events [] :: t.env.poll.pending } }

end Sys2Proof.Machine
end

