-- ==== Sys2Proof/WellFormed.lean ====
section
/-! DEFINITION. The checks a term passes to be an instruction or a machine of this hardware. The operand types of `Instr` carry the bounds of R91, so the checks proper are on the raw numbers a term is built from, and on the parameters of R5. -/

namespace Sys2Proof

/-- A raw number names a general register: 4 bits, 0 .. 15 (R20, R91). -/
def regOk (k : Nat) : Bool := decide (k < 16)

/-- A raw number fits the `n` field: 4 bits (R91, R93). -/
def nibbleOk (k : Nat) : Bool := decide (k < 16)

/-- A raw number fits the `nn` field: 8 bits (R91, R93). -/
def byteOk (k : Nat) : Bool := decide (k < 256)

/-- A raw number fits the `nnn` field: 12 bits (R91, R93). -/
def addrOk (k : Nat) : Bool := decide (k < 4096)

/-- Every operand of the instruction fits its field of the word (R91, R92). -/
def Instr.wellFormed : Instr → Bool
  | .cls => true
  | .ret => true
  | .jmp nnn => addrOk nnn.toNat
  | .call nnn => addrOk nnn.toNat
  | .se x nn => regOk x && byteOk nn.toNat
  | .sne x nn => regOk x && byteOk nn.toNat
  | .seReg x y => regOk x && regOk y
  | .ldImm x nn => regOk x && byteOk nn.toNat
  | .addImm x nn => regOk x && byteOk nn.toNat
  | .mov x y => regOk x && regOk y
  | .orReg x y => regOk x && regOk y
  | .andReg x y => regOk x && regOk y
  | .xorReg x y => regOk x && regOk y
  | .addReg x y => regOk x && regOk y
  | .sub x y => regOk x && regOk y
  | .shr x y => regOk x && regOk y
  | .subn x y => regOk x && regOk y
  | .shl x y => regOk x && regOk y
  | .sneReg x y => regOk x && regOk y
  | .ldI nnn => addrOk nnn.toNat
  | .jmpV0 nnn => addrOk nnn.toNat
  | .rnd x nn => regOk x && byteOk nn.toNat
  | .draw x y n => regOk x && regOk y && nibbleOk n.toNat
  | .skp x => regOk x
  | .sknp x => regOk x
  | .ldVxDt x => regOk x
  | .ldVxK x => regOk x
  | .ldDtVx x => regOk x
  | .ldStVx x => regOk x
  | .addIVx x => regOk x
  | .ldIF x => regOk x
  | .bcd x => regOk x
  | .stor x => regOk x
  | .read x => regOk x

/-- The bounds R5 and D19 put on the parameters: the stack holds 16 .. 24 entries, no two pixels of one sprite
meet on the display (R223), and the glyph table is 80 bytes inside Memory (R63). -/
def Params.wellFormed (p : Params) : Bool :=
  decide (16 ≤ p.stackDepth) && decide (p.stackDepth ≤ 24) && decide (8 ≤ p.dispW) && decide (15 ≤ p.dispH) &&
    decide (p.glyphBase + Config.glyphBytes ≤ Config.memSize) && decide (p.glyphRom.length = Config.glyphBytes)

end Sys2Proof
end

