-- ==== Sys2Proof/Safety.lean ====
section
/-! DEFINITION. The terms claims are stated in: a faulted state, the invariant of the machine, what a transition leaves unchanged, and what a fault entry is. -/

namespace Sys2Proof.Machine

/-- A faulted state is never a good final state (R295, U22). -/
def State.faulted (s : State) : Bool := s.cause.isSome

/-- The grid has `DISP_H` rows of `DISP_W` cells (R28). -/
abbrev Grid.shaped (p : Params) (g : Grid) : Prop := g.length = p.dispH ∧ ∀ row ∈ g, row.length = p.dispW

/-- What holds of the machine in every state a run can reach. -/
structure State.Inv (s : State) : Prop where
  /-- the parameters are in the ranges of R5 -/
  params : s.params.wellFormed = true
  /-- `SP` in [0, N] (R25) -/
  sp : s.sp ≤ s.params.stackDepth
  /-- the call stack has `STACK_DEPTH` entries (R26) -/
  depth : s.stack.length = s.params.stackDepth
  /-- no entry is above 0x1000 (R26) -/
  entries : ∀ a ∈ s.stack, a.toNat ≤ 0x1000
  /-- Memory is in its canonical form -/
  mem : Memory.wf s.params s.mem
  /-- the display keeps its size (R28) -/
  fb : Grid.shaped s.params s.fb
  /-- the largest value `PC` can take is 0x10FE (R23) -/
  pc : s.pc.toNat ≤ 0x10FE
  /-- `CAUSE` is nonzero exactly when `STOP_REASON = Fault` (R33) -/
  cause : s.cause.isSome = true ↔ s.stopReason = .fault
  /-- while a run is in progress no run has ended since its `run` (R33, R121) -/
  record : s.rs ≠ .stopped → s.stopReason = .none
  /-- a waiting machine was put to wait by LD Vx,K and `PC` is `IADDR + 2` (R32, R130) -/
  waiting : s.rs = .waitk → (∃ x, decodeWord s.ir = .ok (.ldVxK x)) ∧ s.pc = s.iaddr + 2

/-! ### Frames -/

/-- The parts of the state a transition may leave unchanged, the general registers apart. -/
inductive Part where
  | i | pc | sp | stack | mem | fb | dt | st | keys | rs
  /-- `IR` and `IADDR` -/
  | fetched
  /-- `STOP_REASON` and `CAUSE` -/
  | record
  | timerDue | poll | rand | waitEvent | host | presented | replies
deriving DecidableEq, Repr

/-- The part is as before. For Memory: every byte reads as before. -/
def Part.kept (q : Part) (s t : State) : Prop :=
  match q with
  | .i => t.i = s.i
  | .pc => t.pc = s.pc
  | .sp => t.sp = s.sp
  | .stack => t.stack = s.stack
  | .mem => ∀ a, t.byte a = s.byte a
  | .fb => t.fb = s.fb
  | .dt => t.dt = s.dt
  | .st => t.st = s.st
  | .keys => t.keys = s.keys
  | .rs => t.rs = s.rs
  | .fetched => t.ir = s.ir ∧ t.iaddr = s.iaddr
  | .record => t.stopReason = s.stopReason ∧ t.cause = s.cause
  | .timerDue => t.env.timerDue = s.env.timerDue
  | .poll => t.env.poll = s.env.poll
  | .rand => t.env.rand = s.env.rand
  | .waitEvent => t.env.waitEvent = s.env.waitEvent
  | .host => t.env.host = s.env.host
  | .presented => t.env.presented = s.env.presented
  | .replies => t.env.replies = s.env.replies

/-- From `s` to `t`, every general register but those of `regs`, every part but those of `parts`, and the parameters
are unchanged. -/
def Frame (regs : List Reg) (parts : List Part) (s t : State) : Prop :=
  (∀ r, r ∉ regs → readV t r = readV s r) ∧ (∀ q : Part, q ∉ parts → q.kept s t) ∧ t.params = s.params

/-- Every byte of Memory outside the `n` bytes from `a` on reads as before. -/
def MemKeptOutside (a n : Nat) (s t : State) : Prop := ∀ k, (k < a ∨ a + n ≤ k) → t.byte k = s.byte k

/-- The registers `V[0]` .. `V[x]` of the block transfers (R204, R205). -/
def blockRegs (x : Reg) : List Reg := (List.finRange 16).filter fun r => decide (r ≤ x)

/-- The seven instructions that write a flag into `VF` (R21). -/
def writesFlag : Instr → Bool
  | .addReg _ _ | .sub _ _ | .shr _ _ | .subn _ _ | .shl _ _ | .draw _ _ _ | .addIVx _ => true
  | .cls | .ret | .jmp _ | .call _ | .se _ _ | .sne _ _ | .seReg _ _ | .ldImm _ _ | .addImm _ _ | .mov _ _
  | .orReg _ _ | .andReg _ _ | .xorReg _ _ | .sneReg _ _ | .ldI _ | .jmpV0 _ | .rnd _ _ | .skp _ | .sknp _
  | .ldVxDt _ | .ldVxK _ | .ldDtVx _ | .ldStVx _ | .ldIF _ | .bcd _ | .stor _ | .read _ => false

/-- The registers an instruction has as explicit destinations (R35). LD Vx,K writes its destination in a later key-wait
step (R130), so none is listed for the instruction itself. -/
def destinations : Instr → List Reg
  | .ldImm x _ | .addImm x _ | .mov x _ | .orReg x _ | .andReg x _ | .xorReg x _ | .addReg x _ | .sub x _
  | .shr x _ | .subn x _ | .shl x _ | .rnd x _ | .ldVxDt x => [x]
  | .read x => blockRegs x
  | .cls | .ret | .jmp _ | .call _ | .se _ _ | .sne _ _ | .seReg _ _ | .sneReg _ _ | .ldI _ | .jmpV0 _
  | .draw _ _ _ | .skp _ | .sknp _ | .ldVxK _ | .ldDtVx _ | .ldStVx _ | .addIVx _ | .ldIF _ | .bcd _ | .stor _ => []

/-- The parts of the state an instruction may write, column by column of R35, beside the general registers. A fault
entry (R295) is apart. -/
def writtenParts : Instr → List Part
  | .cls | .draw _ _ _ => [.fb, .presented]
  | .ret => [.pc, .sp]
  | .call _ => [.pc, .sp, .stack]
  | .jmp _ | .jmpV0 _ | .se _ _ | .sne _ _ | .seReg _ _ | .sneReg _ _ => [.pc]
  | .skp _ | .sknp _ => [.pc, .keys]
  | .ldI _ | .addIVx _ | .ldIF _ => [.i]
  | .bcd _ | .stor _ => [.mem]
  | .ldDtVx _ => [.dt]
  | .ldStVx _ => [.st]
  | .ldVxK _ => [.rs]
  | .rnd _ _ => [.rand]
  | .ldImm _ _ | .addImm _ _ | .mov _ _ | .orReg _ _ | .andReg _ _ | .xorReg _ _ | .addReg _ _ | .sub _ _
  | .shr _ _ | .subn _ _ | .shl _ _ | .ldVxDt _ | .read _ => []

/-- The entry of fault `f` (R295): the record and `RS` are written and nothing else is changed. -/
def FaultEntry (f : Fault) (s t : State) : Prop :=
  t.cause = some f ∧ t.stopReason = .fault ∧ t.rs = .stopped ∧ Frame [] [.record, .rs] s t

end Sys2Proof.Machine
end

