-- ==== Sys2Proof/Certificates/Slice0/Obligations.lean ====
section
/-! DEFINITION. The statements about this machine, from the numbered rules of spec/. The docstring of each names the rules it formalises; where it rests on a choice of the spec or of the model, it says so. -/

open Sys2Proof Sys2Proof.Machine

/-! ### Encoding (spec/30_encoding.md) -/

/-- R91 to R94: the word of every instruction, every operand at every value its field admits, decodes to that
instruction, as a word and as the first two of the bytes Memory holds. -/
def Obligations.DecodeOfEncodeIsTheInstruction : Prop :=
  ∀ (i : Instr) (rest : List Byte),
    decodeWord (encodeWord i) = .ok i ∧ decode (encode i ++ rest) = .ok (i, rest)

/-- R90, R94: a word that decodes is the word of the instruction it decodes to, and that instruction is well formed. That no
two words are one term of `Instr` is the model's choice, not a rule: R96 (the spec's own inference) ignores the `y` field of
SHR and SHL, so that 16 words are one operation there, and the constructors keep `y` all the same (DEDUCED, log entry 26). -/
def Obligations.EncodeOfDecodeIsTheWord : Prop :=
  ∀ (w : Word16) (i : Instr), decodeWord w = .ok i → encodeWord i = w ∧ i.wellFormed = true

/-- R94: a word is a row's instruction exactly when masking it gives the row's fixed bits, and a word that matches no
row is illegal. -/
def Obligations.WordIsItsRowExactlyWhenItMatches : Prop :=
  (∀ w : Word16, ∀ r ∈ opcodeTable,
    (w &&& r.mask = r.bits ↔ ∃ i, decodeWord w = .ok i ∧ i.mnemonic = r.mnemonic)) ∧
  (∀ w : Word16, (∃ e, decodeWord w = .error e) ↔ ∀ r ∈ opcodeTable, w &&& r.mask ≠ r.bits)

/-- R95, the table of illegal words: family by family, the words that are no instruction. That `00E0` and
`00EE` match on all 16 bits is the spec's decision D35 (log entry 25). -/
def Obligations.IllegalWordsAreExactlyThoseListed : Prop :=
  ∀ w : Word16, (∃ e, decodeWord w = .error e) ↔
    (fieldOp w = 0x0 ∧ w ≠ 0x00E0 ∧ w ≠ 0x00EE) ∨
    (fieldOp w = 0x5 ∧ fieldN w ≠ 0) ∨
    (fieldOp w = 0x8 ∧ 7 < (fieldN w).toNat ∧ fieldN w ≠ 0xE) ∨
    (fieldOp w = 0x9 ∧ fieldN w ≠ 0) ∨
    (fieldOp w = 0xE ∧ fieldNN w ≠ 0x9E ∧ fieldNN w ≠ 0xA1) ∨
    (fieldOp w = 0xF ∧ fieldNN w ∉ ([0x07, 0x0A, 0x15, 0x18, 0x1E, 0x29, 0x33, 0x55, 0x65] : List Byte))

/-- R94, R95: words written out from the patterns, one or more for each family, and what they are. -/
def Obligations.WordsWrittenOutDecode : Prop :=
  decodeWord 0x00E0 = .ok .cls ∧ decodeWord 0x1ABC = .ok (.jmp 0xABC) ∧ decodeWord 0x332A = .ok (.se 3 0x2A) ∧
  decodeWord 0x5120 = .ok (.seReg 1 2) ∧ decodeWord 0x812E = .ok (.shl 1 2) ∧ decodeWord 0xA2F0 = .ok (.ldI 0x2F0) ∧
  decodeWord 0xD4A7 = .ok (.draw 4 10 7) ∧ decodeWord 0xE0A1 = .ok (.sknp 0) ∧ decodeWord 0xFF65 = .ok (.read 15) ∧
  decodeWord 0x01E0 = .error .family0 ∧ decodeWord 0x8128 = .error .family8 ∧ decodeWord 0xF175 = .error .familyF

/-! ### The cycle (spec/40_cycle_fsm.md) -/

/-- R122 to R128: in a run, at a `PC` that can be fetched from and with a poll that is not quit, a step is the execution of
the instruction the two bytes at `PC` decode to, from the state phases P1 to P4 leave: both timers counted down if the
strobe is up, every press of the poll latched, the fetch recorded, `PC` moved past it. That a release clears no bit of the
latch is the spec's decision D22 (log entry 17). -/
def Obligations.StepRunsTheDecodedInstruction : Prop :=
  ∀ (s : State) (l : List KeyEvent) (i : Instr),
    s.rs = .running → s.pc.toNat ≤ 0xFFE → (s.env.poll.draw Config.poll).1 = .events l →
    decodeWord (wordOfBytes (s.byte s.pc.toNat) (s.byte (s.pc.toNat + 1))) = .ok i →
    ∃ p, step s = exec i p ∧
      p.pc.toNat = s.pc.toNat + 2 ∧
      p.ir = wordOfBytes (s.byte s.pc.toNat) (s.byte (s.pc.toNat + 1)) ∧ p.iaddr = s.pc ∧
      p.dt.toNat = (if (s.env.timerDue.draw Config.timerDue).1 then s.dt.toNat - 1 else s.dt.toNat) ∧
      p.st.toNat = (if (s.env.timerDue.draw Config.timerDue).1 then s.st.toNat - 1 else s.st.toNat) ∧
      (∀ k : Key, p.keys.getLsbD k.val = (s.keys.getLsbD k.val || l.any fun e => e.pressed && decide (e.key = k))) ∧
      p.env.timerDue = (s.env.timerDue.draw Config.timerDue).2 ∧
      p.env.poll = (s.env.poll.draw Config.poll).2 ∧
      Frame [] [.pc, .fetched, .dt, .st, .keys, .timerDue, .poll] s p

/-- R291, R295: an illegal word at `PC` stops the run with `IllegalOpcode`: `IADDR` and `IR` hold where it stood and what it
was, `PC` is past it, and nothing but the tick and the latching of the same cycle has changed. The record and the `PC` of a
fault are the spec's decision D26 (log entry 14). -/
def Obligations.IllegalWordStopsTheRun : Prop :=
  ∀ (s : State) (l : List KeyEvent) (e : DecodeError),
    s.rs = .running → s.pc.toNat ≤ 0xFFE → (s.env.poll.draw Config.poll).1 = .events l →
    decodeWord (wordOfBytes (s.byte s.pc.toNat) (s.byte (s.pc.toNat + 1))) = .error e →
    ∃ t, step s = .next t ∧
      t.cause = some .illegalOpcode ∧ t.stopReason = .fault ∧ t.rs = .stopped ∧
      t.iaddr = s.pc ∧ t.ir = wordOfBytes (s.byte s.pc.toNat) (s.byte (s.pc.toNat + 1)) ∧
      t.pc.toNat = s.pc.toNat + 2 ∧
      t.dt.toNat = (if (s.env.timerDue.draw Config.timerDue).1 then s.dt.toNat - 1 else s.dt.toNat) ∧
      t.st.toNat = (if (s.env.timerDue.draw Config.timerDue).1 then s.st.toNat - 1 else s.st.toNat) ∧
      (∀ k : Key, t.keys.getLsbD k.val = (s.keys.getLsbD k.val || l.any fun e => e.pressed && decide (e.key = k))) ∧
      Frame [] [.pc, .fetched, .dt, .st, .keys, .timerDue, .poll, .record, .rs] s t

/-- R123: at a cycle start with `PC > MEM_SIZE - 2` the run ends as a natural halt and nothing else changes: no tick, no
refresh, no fetch, `CAUSE` as it was. The place and the bound of the test are the spec's decision D10 (log entry 8). -/
def Obligations.NaturalHaltChangesNothingElse : Prop :=
  ∀ s : State, s.rs = .running → 0xFFE < s.pc.toNat →
    ∃ t, step s = .next t ∧ t.rs = .stopped ∧ t.stopReason = .halt ∧ t.cause = s.cause ∧
      Frame [] [.rs, .record] s t

/-- R125: a quit at the refresh stops the run before the fetch: the tick of the same cycle stays, `PC`, `IR` and `IADDR` are
as they were, and `CAUSE` is not written. -/
def Obligations.QuitAtRefreshStopsBeforeTheFetch : Prop :=
  ∀ s : State, s.rs = .running → s.pc.toNat ≤ 0xFFE → (s.env.poll.draw Config.poll).1 = .quit →
    ∃ t, step s = .next t ∧ t.rs = .stopped ∧ t.stopReason = .quit ∧ t.cause = s.cause ∧
      t.dt.toNat = (if (s.env.timerDue.draw Config.timerDue).1 then s.dt.toNat - 1 else s.dt.toNat) ∧
      t.st.toNat = (if (s.env.timerDue.draw Config.timerDue).1 then s.st.toNat - 1 else s.st.toNat) ∧
      Frame [] [.rs, .record, .dt, .st, .timerDue, .poll] s t

/-! ### The key wait (R130, R245) -/

/-- R130: a key-wait step does one of three things: nothing, deliver the released key to `V[IR[11:8]]` and go on running, or
stop for a quit. In none does it change `PC`, the timers, the latch, Memory, the display, `I` or the stack; that the timers and
the latch rest is the spec's decision D23 (log entry 18). -/
def Obligations.KeyWaitStepDoesOneOfThreeThings : Prop :=
  ∀ s : State, s.rs = .waitk →
    ((s.env.waitEvent.draw Config.waitEvent).1 = .nothing →
      ∃ t, step s = .next t ∧ Frame [] [.waitEvent] s t) ∧
    (∀ k, (s.env.waitEvent.draw Config.waitEvent).1 = .keyup k →
      ∃ t, step s = .next t ∧ t.rs = .running ∧ (readV t (fieldX s.ir)).toNat = k.val ∧
        Frame [fieldX s.ir] [.rs, .waitEvent] s t) ∧
    ((s.env.waitEvent.draw Config.waitEvent).1 = .quit →
      ∃ t, step s = .next t ∧ t.rs = .stopped ∧ t.stopReason = .quit ∧ t.cause = s.cause ∧
        Frame [] [.rs, .record, .waitEvent] s t)

/-- R245, R130: the whole of LD Vx,K across its two steps: the cycle that fetches it leaves the machine waiting with `PC` at
the next instruction, and the key-up of key `k` then puts `k` into the `V[x]` the word names, the timers and the latch
being where that cycle left them (the spec's decision D23, log entry 18). -/
def Obligations.KeyWaitDeliversTheKeyToItsRegister : Prop :=
  ∀ (s : State) (l : List KeyEvent) (x : Reg),
    s.rs = .running → s.pc.toNat ≤ 0xFFE → (s.env.poll.draw Config.poll).1 = .events l →
    decodeWord (wordOfBytes (s.byte s.pc.toNat) (s.byte (s.pc.toNat + 1))) = .ok (.ldVxK x) →
    ∃ t, step s = .next t ∧ t.rs = .waitk ∧ t.pc.toNat = s.pc.toNat + 2 ∧
      ∀ k, (t.env.waitEvent.draw Config.waitEvent).1 = .keyup k →
        ∃ u, step t = .next u ∧ u.rs = .running ∧ (readV u x).toNat = k.val ∧ Frame [x] [.rs, .waitEvent] t u

/-! ### The host (spec/50_interfaces.md, spec/70_reset_and_hazards.md) -/

/-- R131: a stopped machine to which the host gives no command performs no cycle, no tick and no refresh. That an empty
list of waiting commands means no command is the model's choice (log entry 4). -/
def Obligations.StoppedMachineKeepsAllState : Prop :=
  ∀ s : State, s.rs = .stopped → s.env.host = [] → step s = .next s

/-- R262: `run(entry)` writes `PC`, the stop record and `RS`, and nothing else of the hardware. That the command waits at the
head of a list and that the step takes it off is the model's choice (log entry 4, DESIGN CHOICE), no rule of the spec. -/
def Obligations.RunStartsAtItsEntry : Prop :=
  ∀ (s : State) (e : Addr) (rest : List HostCmd), s.rs = .stopped → s.env.host = .run e :: rest →
    ∃ t, step s = .next t ∧ t.pc.toNat = e.toNat ∧ t.rs = .running ∧ t.stopReason = .none ∧ t.cause = none ∧
      t.env.host = rest ∧ Frame [] [.pc, .rs, .record, .host] s t

/-- R70: `load` copies its bytes if they fit, else returns the error and writes none of them; in neither case does it touch
`RS`, `STOP_REASON` or `CAUSE`. The list the command comes from and the list of answers are the model's own (log entries 4 and
21, DESIGN CHOICE). -/
def Obligations.LoadCopiesAllBytesOrNone : Prop :=
  ∀ (s : State) (offset : Nat) (bytes : List Byte) (rest : List HostCmd),
    s.rs = .stopped → s.env.host = .load offset bytes :: rest →
    ∃ t, step s = .next t ∧ t.env.host = rest ∧
      (offset + bytes.length ≤ 4096 →
        t.env.replies = .ok :: s.env.replies ∧
        (∀ k, ∀ h : k < bytes.length, t.byte (offset + k) = bytes[k]) ∧
        MemKeptOutside offset bytes.length s t ∧ Frame [] [.mem, .host, .replies] s t) ∧
      (4096 < offset + bytes.length →
        t.env.replies = .outOfRange :: s.env.replies ∧ Frame [] [.host, .replies] s t)

/-- R320 with R36: `reset` puts every piece of state at its reset value: registers, timers, latch and records zero, the stack
empty and zeroed, Memory zero but for the glyph table, no cell lit; and it emits one `present`. The glyph table installed
again, the `present` and the zeros of the stack and the records are the spec's decisions D5, D28 and D32 (log entries 19, 21
and 22); the list the command comes from is the model's choice (log entry 4). -/
def Obligations.ResetPutsEveryPieceAtItsValue : Prop :=
  ∀ (s : State) (rest : List HostCmd), s.rs = .stopped → s.env.host = .reset :: rest →
    s.params.wellFormed = true →
    ∃ t, step s = .next t ∧ (∀ r, readV t r = 0) ∧ t.i = 0 ∧ t.pc = 0 ∧ t.sp = 0 ∧
      t.stack.length = s.params.stackDepth ∧ (∀ a ∈ t.stack, a = 0) ∧
      (∀ a, (a < s.params.glyphBase ∨ s.params.glyphBase + 80 ≤ a) → t.byte a = 0) ∧
      (∀ k, ∀ h : k < s.params.glyphRom.length, t.byte (s.params.glyphBase + k) = s.params.glyphRom[k]) ∧
      Grid.shaped s.params t.fb ∧ (∀ r c, Grid.cell t.fb r c = false) ∧
      t.dt = 0 ∧ t.st = 0 ∧ t.keys = 0 ∧ t.rs = .stopped ∧ t.stopReason = .none ∧ t.cause = none ∧
      t.ir = 0 ∧ t.iaddr = 0 ∧ t.env.presented = t.fb :: s.env.presented ∧ t.env.host = rest ∧
      Frame (List.finRange 16)
        [.i, .pc, .sp, .stack, .mem, .fb, .dt, .st, .keys, .rs, .record, .fetched, .presented, .host] s t

/-- R322: the boot sequence reset, load, run: after the three commands the machine runs at the entry, with the image in Memory
and every general register zero. That each command is one step of the machine, taken from a list of waiting commands, is the
model's choice (log entries 4 and 5, DESIGN CHOICE): R11 calls only a cycle or a key-wait step a step. -/
def Obligations.BootSequenceReachesTheEntry : Prop :=
  ∀ (s : State) (offset : Nat) (bytes : List Byte) (e : Addr) (rest : List HostCmd),
    s.rs = .stopped → s.env.host = .reset :: .load offset bytes :: .run e :: rest →
    offset + bytes.length ≤ 4096 →
    ∃ t, Host.Core.run Sys2Proof.core 3 s = .next t ∧ t.rs = .running ∧ t.pc.toNat = e.toNat ∧ t.sp = 0 ∧
      (∀ r, readV t r = 0) ∧ (∀ k, ∀ h : k < bytes.length, t.byte (offset + k) = bytes[k]) ∧
      t.env.replies = .ok :: s.env.replies ∧ t.env.host = rest

/-! ### Control flow (spec/41_flow.md) -/

/-- R151: JMP sets `PC` to its address; nothing else changes. -/
def Obligations.JumpSetsPc : Prop :=
  ∀ (nnn : Addr) (s : State), ∃ t, exec (.jmp nnn) s = .next t ∧ t.pc.toNat = nnn.toNat ∧ Frame [] [.pc] s t

/-- R157: JMP+V0 sets `PC` to the sum, not wrapped; no register is written and no random byte is consumed. That the
sum is not wrapped is the spec's decision D11 (log entry 9). -/
def Obligations.JumpPlusV0IsNotWrapped : Prop :=
  ∀ (nnn : Addr) (s : State), ∃ t, exec (.jmpV0 nnn) s = .next t ∧
    t.pc.toNat = nnn.toNat + (readV s 0).toNat ∧ Frame [] [.pc] s t

/-- R152: CALL below the capacity pushes `PC` (the address of the next instruction) on top of the stack and jumps, the other
entries staying; on a full stack it is `StackOverflow`, with `SP`, `STACK` and `PC` unchanged. Where a push lands is the
spec's decision D8 (log entry 23), that a fault has no other effect and keeps `PC` its decisions D16 and D26 (log entry 14),
and that the fault is a next state the model's choice (log entry 6). -/
def Obligations.CallPushesTheReturnAddressOrOverflows : Prop :=
  ∀ (nnn : Addr) (s : State), s.stack.length = s.params.stackDepth →
    (s.sp < s.params.stackDepth → ∃ t, exec (.call nnn) s = .next t ∧
      t.pc.toNat = nnn.toNat ∧ t.sp = s.sp + 1 ∧ t.stack[s.sp]? = some s.pc ∧
      (∀ k, k ≠ s.sp → t.stack[k]? = s.stack[k]?) ∧ Frame [] [.pc, .sp, .stack] s t) ∧
    (s.sp = s.params.stackDepth → ∃ t, exec (.call nnn) s = .next t ∧ FaultEntry .stackOverflow s t)

/-- R150: RET takes the top entry into `PC` and the entry stays in the array as a stale value; on an empty stack it is
`StackUnderflow`, with `SP` and `PC` unchanged. Where a pop reads is the spec's decision D8 (log entry 23), that a fault has no
other effect and keeps `PC` its decisions D16 and D26 (log entry 14), and that the fault is a next state the model's choice
(log entry 6). -/
def Obligations.ReturnPopsIntoPcOrUnderflows : Prop :=
  ∀ s : State,
    (s.sp ≠ 0 → s.sp ≤ s.stack.length → ∃ t, exec .ret s = .next t ∧
      t.sp = s.sp - 1 ∧ s.stack[s.sp - 1]? = some t.pc ∧ Frame [] [.pc, .sp] s t) ∧
    (s.sp = 0 → ∃ t, exec .ret s = .next t ∧ FaultEntry .stackUnderflow s t)

/-- R152: a CALL and then a RET, with the stack between them as the CALL left it, come back to exactly the instruction after
the CALL and to the stack pointer before it, whatever else happened between. The stack's layout is the spec's decision D8 (log
entry 23). -/
def Obligations.CallThenReturnComesBack : Prop :=
  ∀ (nnn : Addr) (s t u : State), s.stack.length = s.params.stackDepth → s.sp < s.params.stackDepth →
    exec (.call nnn) s = .next t → u.sp = t.sp → u.stack = t.stack →
    ∃ r, exec .ret u = .next r ∧ r.pc = s.pc ∧ r.sp = s.sp

/-- R153 to R156, R129: each skip adds 2 to `PC` exactly when its condition holds, and changes nothing else. -/
def Obligations.SkipsAdvancePcExactlyOnTheirCondition : Prop :=
  ∀ (x y : Reg) (nn : Byte) (s : State),
    (∃ t, exec (.se x nn) s = .next t ∧
      t.pc = (if readV s x = nn then s.pc + 2 else s.pc) ∧ Frame [] [.pc] s t) ∧
    (∃ t, exec (.sne x nn) s = .next t ∧
      t.pc = (if readV s x = nn then s.pc else s.pc + 2) ∧ Frame [] [.pc] s t) ∧
    (∃ t, exec (.seReg x y) s = .next t ∧
      t.pc = (if readV s x = readV s y then s.pc + 2 else s.pc) ∧ Frame [] [.pc] s t) ∧
    (∃ t, exec (.sneReg x y) s = .next t ∧
      t.pc = (if readV s x = readV s y then s.pc else s.pc + 2) ∧ Frame [] [.pc] s t)

/-! ### Registers and arithmetic (spec/42_alu.md) -/

/-- R171 to R173: LD imm, ADD imm and MOV write `V[x]` and nothing else; ADD imm wraps modulo 256 and writes no flag. -/
def Obligations.LoadsAndAddImmediateWriteOnlyTheirRegister : Prop :=
  ∀ (x y : Reg) (nn : Byte) (s : State),
    (∃ t, exec (.ldImm x nn) s = .next t ∧ readV t x = nn ∧ Frame [x] [] s t) ∧
    (∃ t, exec (.addImm x nn) s = .next t ∧
      (readV t x).toNat = ((readV s x).toNat + nn.toNat) % 256 ∧ Frame [x] [] s t) ∧
    (∃ t, exec (.mov x y) s = .next t ∧ readV t x = readV s y ∧ Frame [x] [] s t)

/-- R174 to R176: OR, AND and XOR act on every bit and leave `VF` alone unless it is `V[x]`. -/
def Obligations.LogicActsOnEveryBitWithoutFlag : Prop :=
  ∀ (x y : Reg) (s : State),
    (∃ t, exec (.orReg x y) s = .next t ∧ Frame [x] [] s t ∧
      ∀ k, (readV t x).getLsbD k = ((readV s x).getLsbD k || (readV s y).getLsbD k)) ∧
    (∃ t, exec (.andReg x y) s = .next t ∧ Frame [x] [] s t ∧
      ∀ k, (readV t x).getLsbD k = ((readV s x).getLsbD k && (readV s y).getLsbD k)) ∧
    (∃ t, exec (.xorReg x y) s = .next t ∧ Frame [x] [] s t ∧
      ∀ k, (readV t x).getLsbD k = ((readV s x).getLsbD k ^^ (readV s y).getLsbD k))

/-- R177, R22: ADD reg gives the sum modulo 256 in `V[x]` and the carry in `VF`, written last: with `x = 15` the carry is
what remains. -/
def Obligations.AddGivesTheSumAndItsCarry : Prop :=
  ∀ (x y : Reg) (s : State), ∃ t, exec (.addReg x y) s = .next t ∧
    (x ≠ vf → (readV t x).toNat = ((readV s x).toNat + (readV s y).toNat) % 256) ∧
    readV t vf = (if 255 < (readV s x).toNat + (readV s y).toNat then 1 else 0) ∧ Frame [x, vf] [] s t

/-- R178, R180, R22: SUB and SUBN give the difference modulo 256 in `V[x]` and not-borrow in `VF`, written last; at equal
operands the flag is 1. -/
def Obligations.SubtractionsGiveTheDifferenceAndNoBorrow : Prop :=
  ∀ (x y : Reg) (s : State),
    (∃ t, exec (.sub x y) s = .next t ∧
      (x ≠ vf → (readV t x).toNat = ((readV s x).toNat + 256 - (readV s y).toNat) % 256) ∧
      readV t vf = (if (readV s y).toNat ≤ (readV s x).toNat then 1 else 0) ∧ Frame [x, vf] [] s t) ∧
    (∃ t, exec (.subn x y) s = .next t ∧
      (x ≠ vf → (readV t x).toNat = ((readV s y).toNat + 256 - (readV s x).toNat) % 256) ∧
      readV t vf = (if (readV s x).toNat ≤ (readV s y).toNat then 1 else 0) ∧ Frame [x, vf] [] s t)

/-- R179, R181, R22, R96: SHR and SHL move `V[x]` by one place, a 0 coming in and the bit going out in `VF`, written last.
That the `y` field makes no difference is the inference R96 marks as its own (DEDUCED, log entry 26). -/
def Obligations.ShiftsMoveOnePlaceAndIgnoreY : Prop :=
  ∀ (x y y' : Reg) (s : State),
    (∃ t, exec (.shr x y) s = .next t ∧ exec (.shr x y') s = .next t ∧
      (x ≠ vf → (readV t x).toNat = (readV s x).toNat / 2) ∧
      (readV t vf).toNat = (readV s x).toNat % 2 ∧ Frame [x, vf] [] s t) ∧
    (∃ t, exec (.shl x y) s = .next t ∧ exec (.shl x y') s = .next t ∧
      (x ≠ vf → (readV t x).toNat = (readV s x).toNat * 2 % 256) ∧
      (readV t vf).toNat = (readV s x).toNat / 128 ∧ Frame [x, vf] [] s t)

/-- R182, R266: RND takes exactly one sample of the random source, the pending byte if there is one, else a free value, and
leaves it masked in `V[x]`: whatever the byte is, a bit of `V[x]` where `nn` has a 0 is 0. No flag is written. The free byte
is the spec's decision D25 (log entry 1). -/
def Obligations.RandomByteIsMaskedIntoItsRegister : Prop :=
  ∀ (x : Reg) (nn : Byte) (s : State), ∃ t, exec (.rnd x nn) s = .next t ∧
    (∀ k, (readV t x).getLsbD k = ((s.env.rand.draw Config.rand).1.getLsbD k && nn.getLsbD k)) ∧
    t.env.rand = (s.env.rand.draw Config.rand).2 ∧ t.env.rand.drawn = s.env.rand.drawn + 1 ∧
    (∀ b rest, s.env.rand.pending = b :: rest →
      (s.env.rand.draw Config.rand).1 = b ∧ t.env.rand.pending = rest) ∧
    (∀ k, nn.getLsbD k = false → (readV t x).getLsbD k = false) ∧ Frame [x] [.rand] s t

/-! ### The address register and Memory (spec/43_index_memory.md) -/

/-- R200, R201: LD I writes `I` whole; ADD I,Vx leaves the 13-bit sum modulo 4096 in `I` and in `VF`, written last, 1 exactly
when the sum exceeds 0xFFF. -/
def Obligations.AddressRegisterWritesWrapAtTwelveBits : Prop :=
  ∀ (nnn : Addr) (x : Reg) (s : State),
    (∃ t, exec (.ldI nnn) s = .next t ∧ t.i = nnn ∧ Frame [] [.i] s t) ∧
    (∃ t, exec (.addIVx x) s = .next t ∧ t.i.toNat = (s.i.toNat + (readV s x).toNat) % 4096 ∧
      readV t vf = (if 0xFFF < s.i.toNat + (readV s x).toNat then 1 else 0) ∧ Frame [vf] [.i] s t)

/-- R202: LD I,F writes the glyph base plus five times the whole 8-bit value, modulo 4096, for every glyph base; that the digit
is not masked is the spec's decision D14 (log entry 12). -/
def Obligations.GlyphAddressIsBasePlusFiveTimesTheRegister : Prop :=
  ∀ (x : Reg) (s : State), ∃ t, exec (.ldIF x) s = .next t ∧
    t.i.toNat = (s.params.glyphBase + 5 * (readV s x).toNat) % 4096 ∧ Frame [] [.i] s t

/-- R203: BCD stores the hundreds, tens and ones digits of `V[x]` at `I`, `I+1` and `I+2`, and no other byte. -/
def Obligations.BcdStoresThreeDecimalDigits : Prop :=
  ∀ (x : Reg) (s : State), ea s 2 < 4096 → ∃ t, exec (.bcd x) s = .next t ∧
    (t.byte (ea s 0)).toNat = (readV s x).toNat / 100 ∧
    (t.byte (ea s 1)).toNat = (readV s x).toNat / 10 % 10 ∧
    (t.byte (ea s 2)).toNat = (readV s x).toNat % 10 ∧
    MemKeptOutside (ea s 0) 3 s t ∧ Frame [] [.mem] s t

/-- R204: STOR copies `V[0]` .. `V[x]` to `I`, `I+1`, ..., and no other byte; `I` is unchanged, which is the spec's
decision D15 (log entry 13). -/
def Obligations.StoreBlockCopiesTheRegisters : Prop :=
  ∀ (x : Reg) (s : State), ea s x.val < 4096 → ∃ t, exec (.stor x) s = .next t ∧
    (∀ r : Reg, r ≤ x → t.byte (ea s r.val) = readV s r) ∧
    MemKeptOutside (ea s 0) (x.val + 1) s t ∧ Frame [] [.mem] s t

/-- R205: READ copies the bytes at `I`, `I+1`, ... to `V[0]` .. `V[x]`, `VF` among them when `x = 15`; no register above `V[x]`,
no byte of Memory and not `I` changes; for `I` that is the spec's decision D15 (log entry 13). -/
def Obligations.ReadBlockLoadsTheRegisters : Prop :=
  ∀ (x : Reg) (s : State), ea s x.val < 4096 → ∃ t, exec (.read x) s = .next t ∧
    (∀ r : Reg, r ≤ x → readV t r = s.byte (ea s r.val)) ∧ Frame (blockRegs x) [] s t

/-- R69, R294: BCD, STOR, READ and DRAW whose highest address lies outside Memory are `OutOfRange` and change nothing else: no
byte, no register, no cell, and no `present`. The check of the whole range first is the spec's decision D16 (log entry 14). -/
def Obligations.RangeFaultsHaveNoPartialEffect : Prop :=
  ∀ (x y : Reg) (n : Nibble) (s : State),
    (4096 ≤ ea s 2 → ∃ t, exec (.bcd x) s = .next t ∧ FaultEntry .outOfRange s t) ∧
    (4096 ≤ ea s x.val → ∃ t, exec (.stor x) s = .next t ∧ FaultEntry .outOfRange s t) ∧
    (4096 ≤ ea s x.val → ∃ t, exec (.read x) s = .next t ∧ FaultEntry .outOfRange s t) ∧
    (0 < n.toNat → 4096 ≤ ea s (n.toNat - 1) → ∃ t, exec (.draw x y n) s = .next t ∧ FaultEntry .outOfRange s t)

/-- R65, R73: a program that stores two bytes with STOR and then comes to execute them fetches `V[0]` as the high byte of the
instruction and `V[1]` as the low one: the very next cycle sees the store. -/
def Obligations.StoredBytesAreFetchedBigEndian : Prop :=
  ∀ (s t : State) (l : List KeyEvent) (i : Instr),
    exec (.stor 1) s = .next t → ea s 1 < 4096 → t.rs = .running → t.pc = zext16 s.i →
    (t.env.poll.draw Config.poll).1 = .events l → decodeWord (wordOfBytes (readV s 0) (readV s 1)) = .ok i →
    ∃ p, step t = exec i p ∧ p.ir = wordOfBytes (readV s 0) (readV s 1) ∧ p.iaddr = zext16 s.i

/-! ### The display (spec/44_display.md) -/

/-- R220: CLS unlights every cell, the display keeping its size, and emits one `present` of the blank grid. That the events are
a list in State, newest first, is how the model holds them (log entry 21). -/
def Obligations.ClearUnlightsEveryCell : Prop :=
  ∀ s : State, ∃ t, exec .cls s = .next t ∧ Grid.shaped s.params t.fb ∧ (∀ r c, Grid.cell t.fb r c = false) ∧
    t.env.presented = t.fb :: s.env.presented ∧ Frame [] [.fb, .presented] s t

/-- R221 to R225: DRAW XORs bit `7 - col` of the byte at `I + row` into the cell at row `V[y] + row` and column `V[x] + col`, both
modulo the display's size, for every row below `n` and every column below 8; every other cell stays; `VF` is 1 exactly when
a sprite bit of 1 met a cell lit before; one `present` carries the grid after. For every display the parameters allow. That
the sprite is the bytes at `I`, and the case `n` = 0, are the spec's decisions D17 and D18 (log entries 15 and 16). -/
def Obligations.DrawXorsTheSpriteAndReportsCollision : Prop :=
  ∀ (x y : Reg) (n : Nibble) (s : State),
    s.params.wellFormed = true → Grid.shaped s.params s.fb → ea s n.toNat ≤ 4096 →
    ∃ t, exec (.draw x y n) s = .next t ∧
      (∀ row col, row < n.toNat → col < 8 →
        Grid.cell t.fb (((readV s y).toNat + row) % s.params.dispH) (((readV s x).toNat + col) % s.params.dispW)
          = (Grid.cell s.fb (((readV s y).toNat + row) % s.params.dispH) (((readV s x).toNat + col) % s.params.dispW)
              ^^ (s.byte (ea s row)).getLsbD (7 - col))) ∧
      (∀ r c, (∀ row col, row < n.toNat → col < 8 →
          ¬(r = ((readV s y).toNat + row) % s.params.dispH ∧ c = ((readV s x).toNat + col) % s.params.dispW)) →
        Grid.cell t.fb r c = Grid.cell s.fb r c) ∧
      ((∃ row col, row < n.toNat ∧ col < 8 ∧ (s.byte (ea s row)).getLsbD (7 - col) = true ∧
          Grid.cell s.fb (((readV s y).toNat + row) % s.params.dispH) (((readV s x).toNat + col) % s.params.dispW) = true) →
        readV t vf = 1) ∧
      ((∀ row col, row < n.toNat → col < 8 → (s.byte (ea s row)).getLsbD (7 - col) = true →
          Grid.cell s.fb (((readV s y).toNat + row) % s.params.dispH) (((readV s x).toNat + col) % s.params.dispW) = false) →
        readV t vf = 0) ∧
      Grid.shaped s.params t.fb ∧ t.env.presented = t.fb :: s.env.presented ∧ Frame [vf] [.fb, .presented] s t

/-- R224: the same sprite drawn twice in a row at the same place restores the display exactly, for every display the
parameters allow. -/
def Obligations.DrawingTwiceRestoresTheDisplay : Prop :=
  ∀ (x y : Reg) (n : Nibble) (s t u : State),
    s.params.wellFormed = true → Grid.shaped s.params s.fb → ea s n.toNat ≤ 4096 →
    exec (.draw x y n) s = .next t →
    u.fb = t.fb → u.params = s.params → u.i = s.i → (∀ a, u.byte a = s.byte a) →
    readV u x = readV s x → readV u y = readV s y →
    ∃ r, exec (.draw x y n) u = .next r ∧ r.fb = s.fb

/-! ### Timers and keys (spec/45_timers_input.md) -/

/-- R240 to R242: LD Vx,DT, LD DT,Vx and LD ST,Vx move the whole 8-bit value and change nothing else. -/
def Obligations.TimerMovesCopyTheWholeByte : Prop :=
  ∀ (x : Reg) (s : State),
    (∃ t, exec (.ldVxDt x) s = .next t ∧ readV t x = s.dt ∧ Frame [x] [] s t) ∧
    (∃ t, exec (.ldDtVx x) s = .next t ∧ t.dt = readV s x ∧ Frame [] [.dt] s t) ∧
    (∃ t, exec (.ldStVx x) s = .next t ∧ t.st = readV s x ∧ Frame [] [.st] s t)

/-- R243, R244: SKP and SKNP query the key the low 4 bits of `V[x]` select; a hit clears the whole latch; SKP skips on a hit
and SKNP on a miss. The 4 bits and the
clearing of the whole latch are the spec's decisions D20 and D21 (log entries 7 and 17). -/
def Obligations.KeySkipsConsumeTheLatchOnAHit : Prop :=
  ∀ (x : Reg) (s : State),
    (∃ t, exec (.skp x) s = .next t ∧ Frame [] [.pc, .keys] s t ∧
      (s.keys.getLsbD ((readV s x).toNat % 16) = true → t.keys = 0 ∧ t.pc = s.pc + 2) ∧
      (s.keys.getLsbD ((readV s x).toNat % 16) = false → t.keys = s.keys ∧ t.pc = s.pc)) ∧
    (∃ t, exec (.sknp x) s = .next t ∧ Frame [] [.pc, .keys] s t ∧
      (s.keys.getLsbD ((readV s x).toNat % 16) = true → t.keys = 0 ∧ t.pc = s.pc) ∧
      (s.keys.getLsbD ((readV s x).toNat % 16) = false → t.keys = s.keys ∧ t.pc = s.pc + 2))

/-- R245: the cycle of LD Vx,K ends waiting and changes nothing but `RS`: the latch is neither read nor written, `PC` does not
move again and `V[x]` is not yet written (the spec's decision D23, log entry 18). -/
def Obligations.KeyWaitOnlySuspends : Prop :=
  ∀ (x : Reg) (s : State), ∃ t, exec (.ldVxK x) s = .next t ∧ t.rs = .waitk ∧ Frame [] [.rs] s t

/-! ### The whole machine -/

/-- R36: the invariant holds right after reset, which is also the state at power-on (the spec's decisions D5, D6 and D32, log
entries 19 and 22). -/
def Obligations.ResetMeetsTheInvariant : Prop := State.reset.Inv

/-- R23, R25, R26, R28, R33, R130: the invariant is kept by every step from every state that meets it, whatever the
environment and the host do. `SP` as the count of entries is the spec's decision D8 (log entry 23). -/
def Obligations.EveryStepKeepsTheInvariant : Prop :=
  ∀ s t : State, s.Inv → step s = .next t → t.Inv

/-- R290, R295: no instruction and no step ends outside the machine: each of the spec's faults is a state of it
(the model's choice, log entry 6). -/
def Obligations.EveryStepAnswersANextState : Prop :=
  (∀ (i : Instr) (s : State), ∃ t, exec i s = .next t) ∧ (∀ s : State, ∃ t, step s = .next t)

/-- R121: the run state moves only along the transitions of the table. -/
def Obligations.RunStateMovesOnlyAlongItsTable : Prop :=
  ∀ s t : State, step s = .next t →
    (s.rs = .stopped → t.rs = .stopped ∨
      (t.rs = .running ∧ t.stopReason = .none ∧ t.cause = none ∧
        ∃ e rest, s.env.host = .run e :: rest ∧ t.pc = zext16 e)) ∧
    (s.rs = .running →
      (t.rs = .running ∧ t.stopReason = s.stopReason ∧ t.cause = s.cause) ∨
      (t.rs = .waitk ∧ t.stopReason = s.stopReason ∧ t.cause = s.cause ∧
        ∃ x, decodeWord (wordOfBytes (s.byte s.pc.toNat) (s.byte (s.pc.toNat + 1))) = .ok (.ldVxK x)) ∨
      (t.rs = .stopped ∧ t.stopReason = .halt ∧ t.cause = s.cause ∧ 0xFFE < s.pc.toNat) ∨
      (t.rs = .stopped ∧ t.stopReason = .quit ∧ t.cause = s.cause ∧ (s.env.poll.draw Config.poll).1 = .quit) ∨
      (t.rs = .stopped ∧ t.stopReason = .fault ∧ ∃ f, t.cause = some f)) ∧
    (s.rs = .waitk →
      (t.rs = .waitk ∧ (s.env.waitEvent.draw Config.waitEvent).1 = .nothing) ∨
      (t.rs = .running ∧ ∃ k, (s.env.waitEvent.draw Config.waitEvent).1 = .keyup k) ∨
      (t.rs = .stopped ∧ t.stopReason = .quit ∧ (s.env.waitEvent.draw Config.waitEvent).1 = .quit))

/-- R35, R158, R225: the access summary: an instruction writes only the registers and the parts its row of R35 marks, or enters
a fault and writes nothing else. -/
def Obligations.AccessSummaryBoundsEveryInstruction : Prop :=
  ∀ (i : Instr) (s t : State), exec i s = .next t →
    Frame (destinations i ++ (if writesFlag i then [vf] else [])) (writtenParts i) s t ∨ ∃ f, FaultEntry f s t

/-- R21: an instruction that writes a flag leaves 0x00 or 0x01 in `VF`, or faults with `VF` as it was; every other instruction
leaves `VF` unchanged unless `VF` is its explicit destination. -/
def Obligations.FlagRegisterChangesOnlyAsTheTableSays : Prop :=
  ∀ (i : Instr) (s t : State), exec i s = .next t →
    (writesFlag i = true → readV t vf = 0 ∨ readV t vf = 1 ∨ FaultEntry .outOfRange s t) ∧
    (writesFlag i = false → vf ∉ destinations i → readV t vf = readV s vf)

/-- R246, R124, R130: while a run is in progress each timer loses at most 1 per step, only when the one strobe both share is
up, and neither changes in another way unless the instruction executed is the one that sets it; in a key wait neither
moves. The free strobe is the spec's decision D24 (log entry 1). -/
def Obligations.TimersOnlyFallBetweenSets : Prop :=
  ∀ s t : State, step s = .next t →
    (s.rs = .waitk → t.dt = s.dt ∧ t.st = s.st) ∧
    (s.rs = .running →
      ((∃ x, decodeWord t.ir = .ok (.ldDtVx x)) ∨ t.dt.toNat = s.dt.toNat ∨
        ((s.env.timerDue.draw Config.timerDue).1 = true ∧ t.dt.toNat = s.dt.toNat - 1)) ∧
      ((∃ x, decodeWord t.ir = .ok (.ldStVx x)) ∨ t.st.toNat = s.st.toNat ∨
        ((s.env.timerDue.draw Config.timerDue).1 = true ∧ t.st.toNat = s.st.toNat - 1)))
end

