-- ==== Sys2Proof/Laws/Decode.lean ====
section
/-! SUPPORT. The fields of an encoded word, the word rebuilt from its fields, the masks of the opcode table in terms of fields, and words as bytes. -/

namespace Sys2Proof

@[simp] theorem toFin_regBits (r : Reg) : (regBits r).toFin = r := rfl

@[simp] theorem regBits_toFin (b : Nibble) : regBits b.toFin = b := rfl

@[simp] theorem regBits_toNat (r : Reg) : (regBits r).toNat = r.val := rfl

/-! ### The number a format stands for -/

theorem encNNN_toNat (op : Nibble) (nnn : Addr) : (encNNN op nnn).toNat = op.toNat * 4096 + nnn.toNat := by
  have h : (op ++ nnn : BitVec (4 + 12)).toNat = op.toNat * 4096 + nnn.toNat := by
    rw [BitVec.toNat_append, ← Nat.shiftLeft_add_eq_or_of_lt nnn.isLt, Nat.shiftLeft_eq]
  exact h

theorem encXNN_toNat (op : Nibble) (x : Reg) (nn : Byte) :
    (encXNN op x nn).toNat = op.toNat * 4096 + x.val * 256 + nn.toNat := by
  have h : ((op ++ regBits x : BitVec (4 + 4)) ++ nn : BitVec (4 + 4 + 8)).toNat
      = op.toNat * 4096 + x.val * 256 + nn.toNat := by
    rw [BitVec.toNat_append, ← Nat.shiftLeft_add_eq_or_of_lt nn.isLt, Nat.shiftLeft_eq, BitVec.toNat_append,
      ← Nat.shiftLeft_add_eq_or_of_lt (regBits x).isLt, Nat.shiftLeft_eq, regBits_toNat]
    omega
  exact h

theorem encXYN_toNat (op : Nibble) (x y : Reg) (n : Nibble) :
    (encXYN op x y n).toNat = op.toNat * 4096 + x.val * 256 + y.val * 16 + n.toNat := by
  have h : (((op ++ regBits x : BitVec (4 + 4)) ++ regBits y : BitVec (4 + 4 + 4)) ++ n : BitVec (4 + 4 + 4 + 4)).toNat
      = op.toNat * 4096 + x.val * 256 + y.val * 16 + n.toNat := by
    rw [BitVec.toNat_append, ← Nat.shiftLeft_add_eq_or_of_lt n.isLt, Nat.shiftLeft_eq, BitVec.toNat_append,
      ← Nat.shiftLeft_add_eq_or_of_lt (regBits y).isLt, Nat.shiftLeft_eq, BitVec.toNat_append,
      ← Nat.shiftLeft_add_eq_or_of_lt (regBits x).isLt, Nat.shiftLeft_eq, regBits_toNat, regBits_toNat]
    omega
  exact h

/-! ### The number a field stands for -/

theorem fieldOp_toNat (w : Word16) : (fieldOp w).toNat = w.toNat / 4096 := by
  have := w.isLt
  simp [fieldOp, Nat.shiftRight_eq_div_pow]
  omega

theorem fieldX_val (w : Word16) : (fieldX w).val = w.toNat / 256 % 16 := by
  simp [fieldX, Nat.shiftRight_eq_div_pow]

theorem fieldY_val (w : Word16) : (fieldY w).val = w.toNat / 16 % 16 := by
  simp [fieldY, Nat.shiftRight_eq_div_pow]

theorem fieldN_toNat (w : Word16) : (fieldN w).toNat = w.toNat % 16 := by
  simp [fieldN]

theorem fieldNN_toNat (w : Word16) : (fieldNN w).toNat = w.toNat % 256 := by
  simp [fieldNN]

theorem fieldNNN_toNat (w : Word16) : (fieldNNN w).toNat = w.toNat % 4096 := by
  simp [fieldNNN]

/-! ### Fields of an encoded word -/

@[simp] theorem fieldOp_encNNN (op : Nibble) (nnn : Addr) : fieldOp (encNNN op nnn) = op := by
  apply BitVec.eq_of_toNat_eq
  rw [fieldOp_toNat, encNNN_toNat]
  omega

@[simp] theorem fieldNNN_encNNN (op : Nibble) (nnn : Addr) : fieldNNN (encNNN op nnn) = nnn := by
  apply BitVec.eq_of_toNat_eq
  rw [fieldNNN_toNat, encNNN_toNat]
  omega

@[simp] theorem fieldOp_encXNN (op : Nibble) (x : Reg) (nn : Byte) : fieldOp (encXNN op x nn) = op := by
  apply BitVec.eq_of_toNat_eq
  rw [fieldOp_toNat, encXNN_toNat]
  omega

@[simp] theorem fieldX_encXNN (op : Nibble) (x : Reg) (nn : Byte) : fieldX (encXNN op x nn) = x := by
  apply Fin.ext
  rw [fieldX_val, encXNN_toNat]
  omega

@[simp] theorem fieldNN_encXNN (op : Nibble) (x : Reg) (nn : Byte) : fieldNN (encXNN op x nn) = nn := by
  apply BitVec.eq_of_toNat_eq
  rw [fieldNN_toNat, encXNN_toNat]
  omega

@[simp] theorem fieldOp_encXYN (op : Nibble) (x y : Reg) (n : Nibble) : fieldOp (encXYN op x y n) = op := by
  apply BitVec.eq_of_toNat_eq
  rw [fieldOp_toNat, encXYN_toNat]
  omega

@[simp] theorem fieldX_encXYN (op : Nibble) (x y : Reg) (n : Nibble) : fieldX (encXYN op x y n) = x := by
  apply Fin.ext
  rw [fieldX_val, encXYN_toNat]
  omega

@[simp] theorem fieldY_encXYN (op : Nibble) (x y : Reg) (n : Nibble) : fieldY (encXYN op x y n) = y := by
  apply Fin.ext
  rw [fieldY_val, encXYN_toNat]
  omega

@[simp] theorem fieldN_encXYN (op : Nibble) (x y : Reg) (n : Nibble) : fieldN (encXYN op x y n) = n := by
  apply BitVec.eq_of_toNat_eq
  rw [fieldN_toNat, encXYN_toNat]
  omega

/-! ### A word from its fields -/

theorem encNNN_fields (w : Word16) : encNNN (fieldOp w) (fieldNNN w) = w := by
  apply BitVec.eq_of_toNat_eq
  rw [encNNN_toNat, fieldOp_toNat, fieldNNN_toNat]
  omega

theorem encXNN_fields (w : Word16) : encXNN (fieldOp w) (fieldX w) (fieldNN w) = w := by
  apply BitVec.eq_of_toNat_eq
  rw [encXNN_toNat, fieldOp_toNat, fieldX_val, fieldNN_toNat]
  omega

theorem encXYN_fields (w : Word16) : encXYN (fieldOp w) (fieldX w) (fieldY w) (fieldN w) = w := by
  apply BitVec.eq_of_toNat_eq
  rw [encXYN_toNat, fieldOp_toNat, fieldX_val, fieldY_val, fieldN_toNat]
  omega

/-- A word of format NNN is its `op` and its `nnn`. -/
theorem encNNN_of_op {w : Word16} {op : Nibble} (h : fieldOp w = op) : encNNN op (fieldNNN w) = w := by
  rw [← h, encNNN_fields]

/-- A word of format XNN or X is its `op`, its `x` and its `nn`. -/
theorem encXNN_of_op {w : Word16} {op : Nibble} {nn : Byte} (h : fieldOp w = op) (hn : fieldNN w = nn) :
    encXNN op (fieldX w) nn = w := by
  rw [← h, ← hn, encXNN_fields]

/-- A word of format XY or XYN is its `op`, its `x`, its `y` and its `n`. -/
theorem encXYN_of_op {w : Word16} {op n : Nibble} (h : fieldOp w = op) (hn : fieldN w = n) :
    encXYN op (fieldX w) (fieldY w) n = w := by
  rw [← h, ← hn, encXYN_fields]

/-- The `op` field from the number the decoder matches on. -/
theorem fieldOp_eq {w : Word16} {k : Nat} (h : (fieldOp w).toNat = k) : fieldOp w = BitVec.ofNat 4 k := by
  rw [← h, BitVec.ofNat_toNat, BitVec.setWidth_eq]

/-! ### The masks of the opcode table -/

theorem encXYN_getLsbD (op : Nibble) (x y : Reg) (n : Nibble) (i : Nat) :
    (encXYN op x y n).getLsbD i =
      if i < 4 then n.getLsbD i else if i < 8 then (regBits y).getLsbD (i - 4)
      else if i < 12 then (regBits x).getLsbD (i - 8) else op.getLsbD (i - 12) := by
  have h : (((op ++ regBits x : BitVec (4 + 4)) ++ regBits y : BitVec (4 + 4 + 4)) ++ n : BitVec (4 + 4 + 4 + 4)).getLsbD i
      = if i < 4 then n.getLsbD i else if i < 8 then (regBits y).getLsbD (i - 4)
        else if i < 12 then (regBits x).getLsbD (i - 8) else op.getLsbD (i - 12) := by
    rw [BitVec.getLsbD_append, BitVec.getLsbD_append, BitVec.getLsbD_append]
    repeat' split
    all_goals first | omega | rfl
  exact h

theorem encXNN_getLsbD (op : Nibble) (x : Reg) (nn : Byte) (i : Nat) :
    (encXNN op x nn).getLsbD i =
      if i < 8 then nn.getLsbD i else if i < 12 then (regBits x).getLsbD (i - 8) else op.getLsbD (i - 12) := by
  have h : ((op ++ regBits x : BitVec (4 + 4)) ++ nn : BitVec (4 + 4 + 8)).getLsbD i
      = if i < 8 then nn.getLsbD i else if i < 12 then (regBits x).getLsbD (i - 8) else op.getLsbD (i - 12) := by
    rw [BitVec.getLsbD_append, BitVec.getLsbD_append]
    repeat' split
    all_goals first | omega | rfl
  exact h

/-- The mask of formats NNN and XNN keeps `op`. -/
theorem mask_op (w : Word16) : w &&& 0xF000 = encXYN (fieldOp w) 0 0 0 := by
  apply BitVec.eq_of_getLsbD_eq
  intro i hi
  rw [encXYN_getLsbD]
  interval_cases i <;> simp [fieldOp, regBits]

/-- The mask of format XY keeps `op` and `n`. -/
theorem mask_op_n (w : Word16) : w &&& 0xF00F = encXYN (fieldOp w) 0 0 (fieldN w) := by
  apply BitVec.eq_of_getLsbD_eq
  intro i hi
  rw [encXYN_getLsbD]
  interval_cases i <;> simp [fieldOp, fieldN, regBits]

/-- The mask of format X keeps `op` and `nn`. -/
theorem mask_op_nn (w : Word16) : w &&& 0xF0FF = encXNN (fieldOp w) 0 (fieldNN w) := by
  apply BitVec.eq_of_getLsbD_eq
  intro i hi
  rw [encXNN_getLsbD]
  interval_cases i <;> simp [fieldOp, fieldNN, regBits]

/-! ### Words as bytes -/

/-- The bytes of a word make the word again. -/
theorem wordOfBytes_bytes (w : Word16) : wordOfBytes (w.extractLsb' 8 8) (w.extractLsb' 0 8) = w := by
  apply BitVec.eq_of_toNat_eq
  have h : (w.extractLsb' 8 8 ++ w.extractLsb' 0 8 : BitVec (8 + 8)).toNat = w.toNat := by
    rw [BitVec.toNat_append, ← Nat.shiftLeft_add_eq_or_of_lt (w.extractLsb' 0 8).isLt, Nat.shiftLeft_eq]
    have := w.isLt
    simp [Nat.shiftRight_eq_div_pow]
    omega
  exact h

theorem wordOfBytes_toNat (hi lo : Byte) : (wordOfBytes hi lo).toNat = hi.toNat * 256 + lo.toNat := by
  have h : (hi ++ lo : BitVec (8 + 8)).toNat = hi.toNat * 256 + lo.toNat := by
    rw [BitVec.toNat_append, ← Nat.shiftLeft_add_eq_or_of_lt lo.isLt, Nat.shiftLeft_eq]
  exact h

/-- What `decode` does with at least two bytes. -/
theorem decode_cons (hi lo : Byte) (rest : List Byte) :
    decode (hi :: lo :: rest) = (decodeWord (wordOfBytes hi lo)).map fun i => (i, rest) := by
  simp only [decode]
  cases decodeWord (wordOfBytes hi lo) <;> rfl

end Sys2Proof
end

