-- ==== Sys2Proof/Laws/State.lean ====
section
/-! SUPPORT. One lemma per field of State per update of Machine/Ops.lean: what the field holds after the update. -/

namespace Sys2Proof

@[simp] theorem memSize_eq : Config.memSize = 4096 := rfl

@[simp] theorem glyphBytes_eq : Config.glyphBytes = 80 := rfl

theorem zext16_toNat (a : Addr) : (zext16 a).toNat = a.toNat := by simp [zext16]; omega

end Sys2Proof

namespace Sys2Proof.Machine

section setV
variable (s : State) (a : Vector Byte 16)
@[simp] theorem State.setV_params : (s.setV a).params = s.params := rfl
@[simp] theorem State.setV_v : (s.setV a).v = a := rfl
@[simp] theorem State.setV_i : (s.setV a).i = s.i := rfl
@[simp] theorem State.setV_pc : (s.setV a).pc = s.pc := rfl
@[simp] theorem State.setV_sp : (s.setV a).sp = s.sp := rfl
@[simp] theorem State.setV_stack : (s.setV a).stack = s.stack := rfl
@[simp] theorem State.setV_mem : (s.setV a).mem = s.mem := rfl
@[simp] theorem State.setV_fb : (s.setV a).fb = s.fb := rfl
@[simp] theorem State.setV_dt : (s.setV a).dt = s.dt := rfl
@[simp] theorem State.setV_st : (s.setV a).st = s.st := rfl
@[simp] theorem State.setV_keys : (s.setV a).keys = s.keys := rfl
@[simp] theorem State.setV_rs : (s.setV a).rs = s.rs := rfl
@[simp] theorem State.setV_ir : (s.setV a).ir = s.ir := rfl
@[simp] theorem State.setV_iaddr : (s.setV a).iaddr = s.iaddr := rfl
@[simp] theorem State.setV_stopReason : (s.setV a).stopReason = s.stopReason := rfl
@[simp] theorem State.setV_cause : (s.setV a).cause = s.cause := rfl
@[simp] theorem State.setV_env : (s.setV a).env = s.env := rfl
end setV

section setI
variable (s : State) (a : Addr)
@[simp] theorem State.setI_params : (s.setI a).params = s.params := rfl
@[simp] theorem State.setI_v : (s.setI a).v = s.v := rfl
@[simp] theorem State.setI_i : (s.setI a).i = a := rfl
@[simp] theorem State.setI_pc : (s.setI a).pc = s.pc := rfl
@[simp] theorem State.setI_sp : (s.setI a).sp = s.sp := rfl
@[simp] theorem State.setI_stack : (s.setI a).stack = s.stack := rfl
@[simp] theorem State.setI_mem : (s.setI a).mem = s.mem := rfl
@[simp] theorem State.setI_fb : (s.setI a).fb = s.fb := rfl
@[simp] theorem State.setI_dt : (s.setI a).dt = s.dt := rfl
@[simp] theorem State.setI_st : (s.setI a).st = s.st := rfl
@[simp] theorem State.setI_keys : (s.setI a).keys = s.keys := rfl
@[simp] theorem State.setI_rs : (s.setI a).rs = s.rs := rfl
@[simp] theorem State.setI_ir : (s.setI a).ir = s.ir := rfl
@[simp] theorem State.setI_iaddr : (s.setI a).iaddr = s.iaddr := rfl
@[simp] theorem State.setI_stopReason : (s.setI a).stopReason = s.stopReason := rfl
@[simp] theorem State.setI_cause : (s.setI a).cause = s.cause := rfl
@[simp] theorem State.setI_env : (s.setI a).env = s.env := rfl
end setI

section setPc
variable (s : State) (a : Word16)
@[simp] theorem State.setPc_params : (s.setPc a).params = s.params := rfl
@[simp] theorem State.setPc_v : (s.setPc a).v = s.v := rfl
@[simp] theorem State.setPc_i : (s.setPc a).i = s.i := rfl
@[simp] theorem State.setPc_pc : (s.setPc a).pc = a := rfl
@[simp] theorem State.setPc_sp : (s.setPc a).sp = s.sp := rfl
@[simp] theorem State.setPc_stack : (s.setPc a).stack = s.stack := rfl
@[simp] theorem State.setPc_mem : (s.setPc a).mem = s.mem := rfl
@[simp] theorem State.setPc_fb : (s.setPc a).fb = s.fb := rfl
@[simp] theorem State.setPc_dt : (s.setPc a).dt = s.dt := rfl
@[simp] theorem State.setPc_st : (s.setPc a).st = s.st := rfl
@[simp] theorem State.setPc_keys : (s.setPc a).keys = s.keys := rfl
@[simp] theorem State.setPc_rs : (s.setPc a).rs = s.rs := rfl
@[simp] theorem State.setPc_ir : (s.setPc a).ir = s.ir := rfl
@[simp] theorem State.setPc_iaddr : (s.setPc a).iaddr = s.iaddr := rfl
@[simp] theorem State.setPc_stopReason : (s.setPc a).stopReason = s.stopReason := rfl
@[simp] theorem State.setPc_cause : (s.setPc a).cause = s.cause := rfl
@[simp] theorem State.setPc_env : (s.setPc a).env = s.env := rfl
end setPc

section setSp
variable (s : State) (a : Nat)
@[simp] theorem State.setSp_params : (s.setSp a).params = s.params := rfl
@[simp] theorem State.setSp_v : (s.setSp a).v = s.v := rfl
@[simp] theorem State.setSp_i : (s.setSp a).i = s.i := rfl
@[simp] theorem State.setSp_pc : (s.setSp a).pc = s.pc := rfl
@[simp] theorem State.setSp_sp : (s.setSp a).sp = a := rfl
@[simp] theorem State.setSp_stack : (s.setSp a).stack = s.stack := rfl
@[simp] theorem State.setSp_mem : (s.setSp a).mem = s.mem := rfl
@[simp] theorem State.setSp_fb : (s.setSp a).fb = s.fb := rfl
@[simp] theorem State.setSp_dt : (s.setSp a).dt = s.dt := rfl
@[simp] theorem State.setSp_st : (s.setSp a).st = s.st := rfl
@[simp] theorem State.setSp_keys : (s.setSp a).keys = s.keys := rfl
@[simp] theorem State.setSp_rs : (s.setSp a).rs = s.rs := rfl
@[simp] theorem State.setSp_ir : (s.setSp a).ir = s.ir := rfl
@[simp] theorem State.setSp_iaddr : (s.setSp a).iaddr = s.iaddr := rfl
@[simp] theorem State.setSp_stopReason : (s.setSp a).stopReason = s.stopReason := rfl
@[simp] theorem State.setSp_cause : (s.setSp a).cause = s.cause := rfl
@[simp] theorem State.setSp_env : (s.setSp a).env = s.env := rfl
end setSp

section setStack
variable (s : State) (a : List Word16)
@[simp] theorem State.setStack_params : (s.setStack a).params = s.params := rfl
@[simp] theorem State.setStack_v : (s.setStack a).v = s.v := rfl
@[simp] theorem State.setStack_i : (s.setStack a).i = s.i := rfl
@[simp] theorem State.setStack_pc : (s.setStack a).pc = s.pc := rfl
@[simp] theorem State.setStack_sp : (s.setStack a).sp = s.sp := rfl
@[simp] theorem State.setStack_stack : (s.setStack a).stack = a := rfl
@[simp] theorem State.setStack_mem : (s.setStack a).mem = s.mem := rfl
@[simp] theorem State.setStack_fb : (s.setStack a).fb = s.fb := rfl
@[simp] theorem State.setStack_dt : (s.setStack a).dt = s.dt := rfl
@[simp] theorem State.setStack_st : (s.setStack a).st = s.st := rfl
@[simp] theorem State.setStack_keys : (s.setStack a).keys = s.keys := rfl
@[simp] theorem State.setStack_rs : (s.setStack a).rs = s.rs := rfl
@[simp] theorem State.setStack_ir : (s.setStack a).ir = s.ir := rfl
@[simp] theorem State.setStack_iaddr : (s.setStack a).iaddr = s.iaddr := rfl
@[simp] theorem State.setStack_stopReason : (s.setStack a).stopReason = s.stopReason := rfl
@[simp] theorem State.setStack_cause : (s.setStack a).cause = s.cause := rfl
@[simp] theorem State.setStack_env : (s.setStack a).env = s.env := rfl
end setStack

section setMem
variable (s : State) (a : Memory)
@[simp] theorem State.setMem_params : (s.setMem a).params = s.params := rfl
@[simp] theorem State.setMem_v : (s.setMem a).v = s.v := rfl
@[simp] theorem State.setMem_i : (s.setMem a).i = s.i := rfl
@[simp] theorem State.setMem_pc : (s.setMem a).pc = s.pc := rfl
@[simp] theorem State.setMem_sp : (s.setMem a).sp = s.sp := rfl
@[simp] theorem State.setMem_stack : (s.setMem a).stack = s.stack := rfl
@[simp] theorem State.setMem_mem : (s.setMem a).mem = a := rfl
@[simp] theorem State.setMem_fb : (s.setMem a).fb = s.fb := rfl
@[simp] theorem State.setMem_dt : (s.setMem a).dt = s.dt := rfl
@[simp] theorem State.setMem_st : (s.setMem a).st = s.st := rfl
@[simp] theorem State.setMem_keys : (s.setMem a).keys = s.keys := rfl
@[simp] theorem State.setMem_rs : (s.setMem a).rs = s.rs := rfl
@[simp] theorem State.setMem_ir : (s.setMem a).ir = s.ir := rfl
@[simp] theorem State.setMem_iaddr : (s.setMem a).iaddr = s.iaddr := rfl
@[simp] theorem State.setMem_stopReason : (s.setMem a).stopReason = s.stopReason := rfl
@[simp] theorem State.setMem_cause : (s.setMem a).cause = s.cause := rfl
@[simp] theorem State.setMem_env : (s.setMem a).env = s.env := rfl
end setMem

section setFb
variable (s : State) (a : Grid)
@[simp] theorem State.setFb_params : (s.setFb a).params = s.params := rfl
@[simp] theorem State.setFb_v : (s.setFb a).v = s.v := rfl
@[simp] theorem State.setFb_i : (s.setFb a).i = s.i := rfl
@[simp] theorem State.setFb_pc : (s.setFb a).pc = s.pc := rfl
@[simp] theorem State.setFb_sp : (s.setFb a).sp = s.sp := rfl
@[simp] theorem State.setFb_stack : (s.setFb a).stack = s.stack := rfl
@[simp] theorem State.setFb_mem : (s.setFb a).mem = s.mem := rfl
@[simp] theorem State.setFb_fb : (s.setFb a).fb = a := rfl
@[simp] theorem State.setFb_dt : (s.setFb a).dt = s.dt := rfl
@[simp] theorem State.setFb_st : (s.setFb a).st = s.st := rfl
@[simp] theorem State.setFb_keys : (s.setFb a).keys = s.keys := rfl
@[simp] theorem State.setFb_rs : (s.setFb a).rs = s.rs := rfl
@[simp] theorem State.setFb_ir : (s.setFb a).ir = s.ir := rfl
@[simp] theorem State.setFb_iaddr : (s.setFb a).iaddr = s.iaddr := rfl
@[simp] theorem State.setFb_stopReason : (s.setFb a).stopReason = s.stopReason := rfl
@[simp] theorem State.setFb_cause : (s.setFb a).cause = s.cause := rfl
@[simp] theorem State.setFb_env : (s.setFb a).env = s.env := rfl
end setFb

section setDt
variable (s : State) (a : Byte)
@[simp] theorem State.setDt_params : (s.setDt a).params = s.params := rfl
@[simp] theorem State.setDt_v : (s.setDt a).v = s.v := rfl
@[simp] theorem State.setDt_i : (s.setDt a).i = s.i := rfl
@[simp] theorem State.setDt_pc : (s.setDt a).pc = s.pc := rfl
@[simp] theorem State.setDt_sp : (s.setDt a).sp = s.sp := rfl
@[simp] theorem State.setDt_stack : (s.setDt a).stack = s.stack := rfl
@[simp] theorem State.setDt_mem : (s.setDt a).mem = s.mem := rfl
@[simp] theorem State.setDt_fb : (s.setDt a).fb = s.fb := rfl
@[simp] theorem State.setDt_dt : (s.setDt a).dt = a := rfl
@[simp] theorem State.setDt_st : (s.setDt a).st = s.st := rfl
@[simp] theorem State.setDt_keys : (s.setDt a).keys = s.keys := rfl
@[simp] theorem State.setDt_rs : (s.setDt a).rs = s.rs := rfl
@[simp] theorem State.setDt_ir : (s.setDt a).ir = s.ir := rfl
@[simp] theorem State.setDt_iaddr : (s.setDt a).iaddr = s.iaddr := rfl
@[simp] theorem State.setDt_stopReason : (s.setDt a).stopReason = s.stopReason := rfl
@[simp] theorem State.setDt_cause : (s.setDt a).cause = s.cause := rfl
@[simp] theorem State.setDt_env : (s.setDt a).env = s.env := rfl
end setDt

section setSt
variable (s : State) (a : Byte)
@[simp] theorem State.setSt_params : (s.setSt a).params = s.params := rfl
@[simp] theorem State.setSt_v : (s.setSt a).v = s.v := rfl
@[simp] theorem State.setSt_i : (s.setSt a).i = s.i := rfl
@[simp] theorem State.setSt_pc : (s.setSt a).pc = s.pc := rfl
@[simp] theorem State.setSt_sp : (s.setSt a).sp = s.sp := rfl
@[simp] theorem State.setSt_stack : (s.setSt a).stack = s.stack := rfl
@[simp] theorem State.setSt_mem : (s.setSt a).mem = s.mem := rfl
@[simp] theorem State.setSt_fb : (s.setSt a).fb = s.fb := rfl
@[simp] theorem State.setSt_dt : (s.setSt a).dt = s.dt := rfl
@[simp] theorem State.setSt_st : (s.setSt a).st = a := rfl
@[simp] theorem State.setSt_keys : (s.setSt a).keys = s.keys := rfl
@[simp] theorem State.setSt_rs : (s.setSt a).rs = s.rs := rfl
@[simp] theorem State.setSt_ir : (s.setSt a).ir = s.ir := rfl
@[simp] theorem State.setSt_iaddr : (s.setSt a).iaddr = s.iaddr := rfl
@[simp] theorem State.setSt_stopReason : (s.setSt a).stopReason = s.stopReason := rfl
@[simp] theorem State.setSt_cause : (s.setSt a).cause = s.cause := rfl
@[simp] theorem State.setSt_env : (s.setSt a).env = s.env := rfl
end setSt

section setKeys
variable (s : State) (a : Word16)
@[simp] theorem State.setKeys_params : (s.setKeys a).params = s.params := rfl
@[simp] theorem State.setKeys_v : (s.setKeys a).v = s.v := rfl
@[simp] theorem State.setKeys_i : (s.setKeys a).i = s.i := rfl
@[simp] theorem State.setKeys_pc : (s.setKeys a).pc = s.pc := rfl
@[simp] theorem State.setKeys_sp : (s.setKeys a).sp = s.sp := rfl
@[simp] theorem State.setKeys_stack : (s.setKeys a).stack = s.stack := rfl
@[simp] theorem State.setKeys_mem : (s.setKeys a).mem = s.mem := rfl
@[simp] theorem State.setKeys_fb : (s.setKeys a).fb = s.fb := rfl
@[simp] theorem State.setKeys_dt : (s.setKeys a).dt = s.dt := rfl
@[simp] theorem State.setKeys_st : (s.setKeys a).st = s.st := rfl
@[simp] theorem State.setKeys_keys : (s.setKeys a).keys = a := rfl
@[simp] theorem State.setKeys_rs : (s.setKeys a).rs = s.rs := rfl
@[simp] theorem State.setKeys_ir : (s.setKeys a).ir = s.ir := rfl
@[simp] theorem State.setKeys_iaddr : (s.setKeys a).iaddr = s.iaddr := rfl
@[simp] theorem State.setKeys_stopReason : (s.setKeys a).stopReason = s.stopReason := rfl
@[simp] theorem State.setKeys_cause : (s.setKeys a).cause = s.cause := rfl
@[simp] theorem State.setKeys_env : (s.setKeys a).env = s.env := rfl
end setKeys

section setRs
variable (s : State) (a : RunState)
@[simp] theorem State.setRs_params : (s.setRs a).params = s.params := rfl
@[simp] theorem State.setRs_v : (s.setRs a).v = s.v := rfl
@[simp] theorem State.setRs_i : (s.setRs a).i = s.i := rfl
@[simp] theorem State.setRs_pc : (s.setRs a).pc = s.pc := rfl
@[simp] theorem State.setRs_sp : (s.setRs a).sp = s.sp := rfl
@[simp] theorem State.setRs_stack : (s.setRs a).stack = s.stack := rfl
@[simp] theorem State.setRs_mem : (s.setRs a).mem = s.mem := rfl
@[simp] theorem State.setRs_fb : (s.setRs a).fb = s.fb := rfl
@[simp] theorem State.setRs_dt : (s.setRs a).dt = s.dt := rfl
@[simp] theorem State.setRs_st : (s.setRs a).st = s.st := rfl
@[simp] theorem State.setRs_keys : (s.setRs a).keys = s.keys := rfl
@[simp] theorem State.setRs_rs : (s.setRs a).rs = a := rfl
@[simp] theorem State.setRs_ir : (s.setRs a).ir = s.ir := rfl
@[simp] theorem State.setRs_iaddr : (s.setRs a).iaddr = s.iaddr := rfl
@[simp] theorem State.setRs_stopReason : (s.setRs a).stopReason = s.stopReason := rfl
@[simp] theorem State.setRs_cause : (s.setRs a).cause = s.cause := rfl
@[simp] theorem State.setRs_env : (s.setRs a).env = s.env := rfl
end setRs

section setFetched
variable (s : State) (a b : Word16)
@[simp] theorem State.setFetched_params : (s.setFetched a b).params = s.params := rfl
@[simp] theorem State.setFetched_v : (s.setFetched a b).v = s.v := rfl
@[simp] theorem State.setFetched_i : (s.setFetched a b).i = s.i := rfl
@[simp] theorem State.setFetched_pc : (s.setFetched a b).pc = s.pc := rfl
@[simp] theorem State.setFetched_sp : (s.setFetched a b).sp = s.sp := rfl
@[simp] theorem State.setFetched_stack : (s.setFetched a b).stack = s.stack := rfl
@[simp] theorem State.setFetched_mem : (s.setFetched a b).mem = s.mem := rfl
@[simp] theorem State.setFetched_fb : (s.setFetched a b).fb = s.fb := rfl
@[simp] theorem State.setFetched_dt : (s.setFetched a b).dt = s.dt := rfl
@[simp] theorem State.setFetched_st : (s.setFetched a b).st = s.st := rfl
@[simp] theorem State.setFetched_keys : (s.setFetched a b).keys = s.keys := rfl
@[simp] theorem State.setFetched_rs : (s.setFetched a b).rs = s.rs := rfl
@[simp] theorem State.setFetched_ir : (s.setFetched a b).ir = a := rfl
@[simp] theorem State.setFetched_iaddr : (s.setFetched a b).iaddr = b := rfl
@[simp] theorem State.setFetched_stopReason : (s.setFetched a b).stopReason = s.stopReason := rfl
@[simp] theorem State.setFetched_cause : (s.setFetched a b).cause = s.cause := rfl
@[simp] theorem State.setFetched_env : (s.setFetched a b).env = s.env := rfl
end setFetched

section setRecord
variable (s : State) (a : StopReason) (b : Option Fault)
@[simp] theorem State.setRecord_params : (s.setRecord a b).params = s.params := rfl
@[simp] theorem State.setRecord_v : (s.setRecord a b).v = s.v := rfl
@[simp] theorem State.setRecord_i : (s.setRecord a b).i = s.i := rfl
@[simp] theorem State.setRecord_pc : (s.setRecord a b).pc = s.pc := rfl
@[simp] theorem State.setRecord_sp : (s.setRecord a b).sp = s.sp := rfl
@[simp] theorem State.setRecord_stack : (s.setRecord a b).stack = s.stack := rfl
@[simp] theorem State.setRecord_mem : (s.setRecord a b).mem = s.mem := rfl
@[simp] theorem State.setRecord_fb : (s.setRecord a b).fb = s.fb := rfl
@[simp] theorem State.setRecord_dt : (s.setRecord a b).dt = s.dt := rfl
@[simp] theorem State.setRecord_st : (s.setRecord a b).st = s.st := rfl
@[simp] theorem State.setRecord_keys : (s.setRecord a b).keys = s.keys := rfl
@[simp] theorem State.setRecord_rs : (s.setRecord a b).rs = s.rs := rfl
@[simp] theorem State.setRecord_ir : (s.setRecord a b).ir = s.ir := rfl
@[simp] theorem State.setRecord_iaddr : (s.setRecord a b).iaddr = s.iaddr := rfl
@[simp] theorem State.setRecord_stopReason : (s.setRecord a b).stopReason = a := rfl
@[simp] theorem State.setRecord_cause : (s.setRecord a b).cause = b := rfl
@[simp] theorem State.setRecord_env : (s.setRecord a b).env = s.env := rfl
end setRecord

section setEnv
variable (s : State) (a : Env)
@[simp] theorem State.setEnv_params : (s.setEnv a).params = s.params := rfl
@[simp] theorem State.setEnv_v : (s.setEnv a).v = s.v := rfl
@[simp] theorem State.setEnv_i : (s.setEnv a).i = s.i := rfl
@[simp] theorem State.setEnv_pc : (s.setEnv a).pc = s.pc := rfl
@[simp] theorem State.setEnv_sp : (s.setEnv a).sp = s.sp := rfl
@[simp] theorem State.setEnv_stack : (s.setEnv a).stack = s.stack := rfl
@[simp] theorem State.setEnv_mem : (s.setEnv a).mem = s.mem := rfl
@[simp] theorem State.setEnv_fb : (s.setEnv a).fb = s.fb := rfl
@[simp] theorem State.setEnv_dt : (s.setEnv a).dt = s.dt := rfl
@[simp] theorem State.setEnv_st : (s.setEnv a).st = s.st := rfl
@[simp] theorem State.setEnv_keys : (s.setEnv a).keys = s.keys := rfl
@[simp] theorem State.setEnv_rs : (s.setEnv a).rs = s.rs := rfl
@[simp] theorem State.setEnv_ir : (s.setEnv a).ir = s.ir := rfl
@[simp] theorem State.setEnv_iaddr : (s.setEnv a).iaddr = s.iaddr := rfl
@[simp] theorem State.setEnv_stopReason : (s.setEnv a).stopReason = s.stopReason := rfl
@[simp] theorem State.setEnv_cause : (s.setEnv a).cause = s.cause := rfl
@[simp] theorem State.setEnv_env : (s.setEnv a).env = a := rfl
end setEnv

end Sys2Proof.Machine
end

