-- ==== Sys2Proof/Laws/Memory.lean ====
section
/-! SUPPORT. Memory: a read after a write, and that every operation keeps the canonical form. -/

namespace Sys2Proof.Machine

/-! ### One byte -/

theorem Memory.read_put_self (p : Params) (m : Memory) (a : Nat) (b : Byte) : (m.put a b).read p a = b := by
  induction m with
  | nil => simp [Memory.put, Memory.read]
  | cons c rest ih =>
    simp only [Memory.put]
    split
    · simp [Memory.read]
    · split
      · simp [Memory.read]
      · next h => simp [Memory.read, Ne.symm h, ih]

theorem Memory.read_put_ne (p : Params) (m : Memory) {a k : Nat} (b : Byte) (h : k ≠ a) :
    (m.put a b).read p k = m.read p k := by
  induction m with
  | nil => simp [Memory.put, Memory.read, Ne.symm h]
  | cons c rest ih =>
    simp only [Memory.put]
    split
    · simp [Memory.read, Ne.symm h]
    · split
      · next h2 => subst h2; simp [Memory.read, Ne.symm h]
      · simp [Memory.read, ih]

theorem Memory.read_drop_self (p : Params) (m : Memory) (a : Nat) : (m.drop a).read p a = resetByte p a := by
  induction m with
  | nil => rfl
  | cons c rest ih =>
    rw [Memory.drop, List.filter_cons]
    split
    · next h =>
      simp only [Memory.read, of_decide_eq_true h, if_false]
      exact ih
    · exact ih

theorem Memory.read_drop_ne (p : Params) (m : Memory) {a k : Nat} (h : k ≠ a) :
    (m.drop a).read p k = m.read p k := by
  induction m with
  | nil => rfl
  | cons c rest ih =>
    rw [Memory.drop, List.filter_cons]
    split
    · simp only [Memory.read]; split
      · rfl
      · exact ih
    · next h2 =>
      have hc : c.1 = a := by simpa using h2
      simp only [Memory.read, hc, Ne.symm h, if_false]; exact ih

/-- A read after a write to the same address gives the byte written. -/
@[simp] theorem Memory.read_write_self (p : Params) (m : Memory) (a : Nat) (b : Byte) :
    (m.write p a b).read p a = b := by
  unfold Memory.write
  split
  · next h => rw [Memory.read_drop_self, h]
  · exact Memory.read_put_self p m a b

/-- A write leaves every other address alone. -/
theorem Memory.read_write_ne (p : Params) (m : Memory) {a k : Nat} (b : Byte) (h : k ≠ a) :
    (m.write p a b).read p k = m.read p k := by
  unfold Memory.write
  split
  · exact Memory.read_drop_ne p m h
  · exact Memory.read_put_ne p m b h

/-! ### The canonical form -/

theorem Memory.wf_nil (p : Params) : Memory.wf p [] := by simp [Memory.wf]

theorem Memory.mem_put {m : Memory} {a : Nat} {b : Byte} {c : Host.Cell} (h : c ∈ m.put a b) : c = (a, b) ∨ c ∈ m := by
  induction m with
  | nil => simpa [Memory.put] using h
  | cons d rest ih =>
    simp only [Memory.put] at h
    split at h
    · simpa using h
    · split at h
      · rcases List.mem_cons.mp h with h | h
        · exact .inl h
        · exact .inr (List.mem_cons_of_mem _ h)
      · rcases List.mem_cons.mp h with h | h
        · exact .inr (h ▸ List.mem_cons_self)
        · exact (ih h).imp_right (List.mem_cons_of_mem _)

theorem Memory.put_sorted {m : Memory} (a : Nat) (b : Byte) (h : m.Pairwise fun c d => c.1 < d.1) :
    (m.put a b).Pairwise fun c d => c.1 < d.1 := by
  induction m with
  | nil => simp [Memory.put]
  | cons d rest ih =>
    obtain ⟨hd, hr⟩ := List.pairwise_cons.mp h
    simp only [Memory.put]
    split
    · next hlt =>
      refine List.pairwise_cons.mpr ⟨fun c hc => ?_, h⟩
      rcases List.mem_cons.mp hc with hc | hc
      · exact hc ▸ hlt
      · exact Nat.lt_trans hlt (hd c hc)
    · split
      · next heq => exact List.pairwise_cons.mpr ⟨fun c hc => heq ▸ hd c hc, hr⟩
      · refine List.pairwise_cons.mpr ⟨fun c hc => ?_, ih hr⟩
        rcases Memory.mem_put hc with hc | hc
        · subst hc; simp only; omega
        · exact hd c hc

/-- Every write inside Memory keeps the canonical form. -/
theorem Memory.write_wf {p : Params} {m : Memory} {a : Nat} (b : Byte) (ha : a < Config.memSize) (h : Memory.wf p m) :
    Memory.wf p (m.write p a b) := by
  unfold Memory.write
  split
  · exact ⟨h.1.filter _, fun c hc => h.2 c (List.mem_filter.mp hc).1⟩
  · next hb =>
    refine ⟨Memory.put_sorted a b h.1, fun c hc => ?_⟩
    rcases Memory.mem_put hc with hc | hc
    · subst hc; exact ⟨ha, hb⟩
    · exact h.2 c hc

theorem Memory.writeList_wf {p : Params} {m : Memory} {a : Nat} (bs : List Byte) (ha : a + bs.length ≤ Config.memSize)
    (h : Memory.wf p m) : Memory.wf p (m.writeList p a bs) := by
  induction bs generalizing m a with
  | nil => exact h
  | cons b bs ih =>
    rw [List.length_cons] at ha
    exact ih (by omega) (Memory.write_wf b (by omega) h)

/-- Two canonical memories that read the same everywhere are the same list. -/
theorem Memory.wf_ext {p : Params} {m n : Memory} (hm : Memory.wf p m) (hn : Memory.wf p n)
    (h : ∀ a, m.read p a = n.read p a) : m = n := by
  have absent : ∀ {q : Memory} {a : Nat}, (∀ c ∈ q, a < c.1) → q.read p a = resetByte p a := by
    intro q a hq
    induction q with
    | nil => rfl
    | cons c rest ih =>
      have : c.1 ≠ a := by have := hq c List.mem_cons_self; omega
      simp only [Memory.read, this, if_false]
      exact ih fun d hd => hq d (List.mem_cons_of_mem _ hd)
  have head : ∀ {c : Host.Cell} {q : Memory}, (List.Pairwise (fun c d : Host.Cell => c.1 < d.1) (c :: q)) →
      ∀ a, a ≤ c.1 → a ≠ c.1 → Memory.read p (c :: q) a = resetByte p a := by
    intro c q hs a hle hne
    refine absent fun d hd => ?_
    rcases List.mem_cons.mp hd with hd | hd
    · subst hd; omega
    · have := (List.pairwise_cons.mp hs).1 d hd; omega
  induction m generalizing n with
  | nil =>
    cases n with
    | nil => rfl
    | cons d n' =>
      have h1 := h d.1
      simp only [Memory.read, if_true] at h1
      exact absurd h1.symm (hn.2 d List.mem_cons_self).2
  | cons c m' ih =>
    cases n with
    | nil =>
      have h1 := h c.1
      simp only [Memory.read, if_true] at h1
      exact absurd h1 (hm.2 c List.mem_cons_self).2
    | cons d n' =>
      have hk : c.1 = d.1 := by
        rcases Nat.lt_trichotomy c.1 d.1 with hlt | heq | hgt
        · have h1 := h c.1
          rw [head hn.1 c.1 (Nat.le_of_lt hlt) (Nat.ne_of_lt hlt)] at h1
          simp only [Memory.read, if_true] at h1
          exact absurd h1 (hm.2 c List.mem_cons_self).2
        · exact heq
        · have h1 := h d.1
          rw [head hm.1 d.1 (Nat.le_of_lt hgt) (Nat.ne_of_lt hgt)] at h1
          simp only [Memory.read, if_true] at h1
          exact absurd h1.symm (hn.2 d List.mem_cons_self).2
      have hb : c.2 = d.2 := by
        have h1 := h c.1
        simpa [Memory.read, hk] using h1
      have hcd : c = d := Prod.ext hk hb
      subst hcd
      have hm' := List.pairwise_cons.mp hm.1
      have hn' := List.pairwise_cons.mp hn.1
      refine congrArg (c :: ·) (ih ⟨hm'.2, fun e he => hm.2 e (List.mem_cons_of_mem _ he)⟩
        ⟨hn'.2, fun e he => hn.2 e (List.mem_cons_of_mem _ he)⟩ fun a => ?_)
      have h1 := h a
      simp only [Memory.read] at h1
      split at h1
      · next ha =>
        rw [absent fun e he => ha ▸ hm'.1 e he, absent fun e he => ha ▸ hn'.1 e he]
      · exact h1

/-! ### Ranges -/

/-- A byte outside the range written reads as before. -/
theorem Memory.read_writeList_out (p : Params) (m : Memory) (a : Nat) (bs : List Byte) {k : Nat}
    (h : k < a ∨ a + bs.length ≤ k) : (m.writeList p a bs).read p k = m.read p k := by
  induction bs generalizing m a with
  | nil => rfl
  | cons b bs ih =>
    rw [List.length_cons] at h
    rw [Memory.writeList, ih _ _ (by omega), Memory.read_write_ne _ _ _ (by omega)]

/-- A byte inside the range written reads as the byte written there. -/
theorem Memory.read_writeList_in (p : Params) (m : Memory) (a : Nat) (bs : List Byte) {k : Nat} (h : k < bs.length) :
    (m.writeList p a bs).read p (a + k) = bs[k] := by
  induction bs generalizing m a k with
  | nil => simp at h
  | cons b bs ih =>
    rw [Memory.writeList]
    cases k with
    | zero => rw [Memory.read_writeList_out _ _ _ _ (by omega)]; simp
    | succ k =>
      rw [List.length_cons] at h
      rw [show a + (k + 1) = a + 1 + k by omega, ih _ _ (by omega)]; simp

@[simp] theorem Memory.readList_length (p : Params) (m : Memory) (a n : Nat) : (m.readList p a n).length = n := by
  induction n generalizing a with
  | zero => rfl
  | succ n ih => rw [Memory.readList, List.length_cons, ih]

theorem Memory.readList_getElem (p : Params) (m : Memory) (a n : Nat) {k : Nat} (h : k < (m.readList p a n).length) :
    (m.readList p a n)[k] = m.read p (a + k) := by
  induction n generalizing a k with
  | zero => simp at h
  | succ n ih =>
    cases k with
    | zero => simp [Memory.readList]
    | succ k =>
      simp only [Memory.readList, List.getElem_cons_succ]
      rw [ih]; congr 1; omega

end Sys2Proof.Machine
end

