-- ==== Sys2Proof/Laws/Ops.lean ====
section
/-! SUPPORT. What each shared operation of Machine/Ops.lean, Operands.lean and Flags.lean does, said once. -/

namespace Sys2Proof.Machine

/-! ### Registers -/

@[simp] theorem readV_writeV_self (s : State) (x : Reg) (b : Byte) : readV (writeV s x b) x = b := by
  simp [readV, writeV]

theorem readV_writeV_ne (s : State) {x y : Reg} (b : Byte) (h : y ≠ x) : readV (writeV s x b) y = readV s y := by
  have : x.val ≠ y.val := fun e => h (Fin.ext e.symm)
  simp [readV, writeV, this]

theorem readV_writeV (s : State) (x y : Reg) (b : Byte) :
    readV (writeV s x b) y = if y = x then b else readV s y := by
  split
  · next h => rw [h, readV_writeV_self]
  · next h => exact readV_writeV_ne s b h

/-- Two states with the same reading of every register have the same register file. -/
theorem v_ext {s t : State} (h : ∀ r, readV s r = readV t r) : s.v = t.v := by
  ext k hk
  have := h ⟨k, hk⟩
  simp only [readV] at this
  rw [this]

@[simp] theorem readV_writeFlag_vf (s : State) (c : Bool) : readV (writeFlag s c) vf = flagByte c := by
  simp [writeFlag]

theorem readV_writeFlag_ne (s : State) {r : Reg} (c : Bool) (h : r ≠ vf) : readV (writeFlag s c) r = readV s r :=
  readV_writeV_ne s _ h

@[simp] theorem readV_writeResultFlag_vf (s : State) (x : Reg) (b : Byte) (c : Bool) :
    readV (writeResultFlag s x b c) vf = flagByte c := by
  simp [writeResultFlag]

theorem readV_writeResultFlag_dst (s : State) {x : Reg} (b : Byte) (c : Bool) (h : x ≠ vf) :
    readV (writeResultFlag s x b c) x = b := by
  rw [writeResultFlag, readV_writeFlag_ne _ _ h, readV_writeV_self]

theorem readV_writeResultFlag_ne (s : State) {x r : Reg} (b : Byte) (c : Bool) (hx : r ≠ x) (hf : r ≠ vf) :
    readV (writeResultFlag s x b c) r = readV s r := by
  rw [writeResultFlag, readV_writeFlag_ne _ _ hf, readV_writeV_ne _ _ hx]

/-- The block load writes the registers its bytes reach and no other. -/
theorem setRegs_getElem (v : Vector Byte 16) (k : Nat) (bs : List Byte) {j : Nat} (hj : j < 16) :
    (setRegs v k bs)[j] = if h : k ≤ j ∧ j < k + bs.length then bs[j - k] else v[j] := by
  induction bs generalizing v k with
  | nil => simp [setRegs]
  | cons b bs ih =>
    rw [setRegs, ih]
    simp only [List.length_cons]
    by_cases h1 : k + 1 ≤ j ∧ j < k + 1 + bs.length
    · rw [dif_pos h1, dif_pos (by omega)]
      rw [List.getElem_cons, dif_neg (by omega)]
      congr 1
    · rw [dif_neg h1, Vector.getElem_setIfInBounds]
      by_cases h2 : k = j
      · subst h2
        rw [if_pos rfl, dif_pos (by omega)]
        simp
      · rw [if_neg h2, dif_neg (by omega)]

@[simp] theorem readBlock_length (s : State) (x : Reg) : (readBlock s x).length = x.val + 1 := by
  simp [readBlock]

theorem readBlock_getElem (s : State) (x : Reg) {k : Nat} (h : k < (readBlock s x).length) :
    (readBlock s x)[k] = readV s ⟨k, by rw [readBlock_length] at h; omega⟩ := by
  simp [readBlock, readV]

/-! ### A register reads the same after an update of another field -/

@[simp] theorem readV_setI (s : State) (a : Addr) (r : Reg) : readV (s.setI a) r = readV s r := rfl
@[simp] theorem readV_setPc (s : State) (a : Word16) (r : Reg) : readV (s.setPc a) r = readV s r := rfl
@[simp] theorem readV_setSp (s : State) (a : Nat) (r : Reg) : readV (s.setSp a) r = readV s r := rfl
@[simp] theorem readV_setStack (s : State) (a : List Word16) (r : Reg) : readV (s.setStack a) r = readV s r := rfl
@[simp] theorem readV_setMem (s : State) (a : Memory) (r : Reg) : readV (s.setMem a) r = readV s r := rfl
@[simp] theorem readV_setFb (s : State) (a : Grid) (r : Reg) : readV (s.setFb a) r = readV s r := rfl
@[simp] theorem readV_setDt (s : State) (a : Byte) (r : Reg) : readV (s.setDt a) r = readV s r := rfl
@[simp] theorem readV_setSt (s : State) (a : Byte) (r : Reg) : readV (s.setSt a) r = readV s r := rfl
@[simp] theorem readV_setKeys (s : State) (a : Word16) (r : Reg) : readV (s.setKeys a) r = readV s r := rfl
@[simp] theorem readV_setRs (s : State) (a : RunState) (r : Reg) : readV (s.setRs a) r = readV s r := rfl
@[simp] theorem readV_setFetched (s : State) (a b : Word16) (r : Reg) : readV (s.setFetched a b) r = readV s r := rfl
@[simp] theorem readV_setRecord (s : State) (a : StopReason) (b : Option Fault) (r : Reg) : readV (s.setRecord a b) r = readV s r := rfl
@[simp] theorem readV_setEnv (s : State) (a : Env) (r : Reg) : readV (s.setEnv a) r = readV s r := rfl
@[simp] theorem readV_setV (s : State) (a : Vector Byte 16) (r : Reg) : readV (s.setV a) r = a[r.val] := rfl

/-! ### A byte of Memory reads the same after an update of another field -/

@[simp] theorem byte_setV (s : State) (a : Vector Byte 16) (k : Nat) : (s.setV a).byte k = s.byte k := rfl
@[simp] theorem byte_setI (s : State) (a : Addr) (k : Nat) : (s.setI a).byte k = s.byte k := rfl
@[simp] theorem byte_setPc (s : State) (a : Word16) (k : Nat) : (s.setPc a).byte k = s.byte k := rfl
@[simp] theorem byte_setSp (s : State) (a : Nat) (k : Nat) : (s.setSp a).byte k = s.byte k := rfl
@[simp] theorem byte_setStack (s : State) (a : List Word16) (k : Nat) : (s.setStack a).byte k = s.byte k := rfl
@[simp] theorem byte_setFb (s : State) (a : Grid) (k : Nat) : (s.setFb a).byte k = s.byte k := rfl
@[simp] theorem byte_setDt (s : State) (a : Byte) (k : Nat) : (s.setDt a).byte k = s.byte k := rfl
@[simp] theorem byte_setSt (s : State) (a : Byte) (k : Nat) : (s.setSt a).byte k = s.byte k := rfl
@[simp] theorem byte_setKeys (s : State) (a : Word16) (k : Nat) : (s.setKeys a).byte k = s.byte k := rfl
@[simp] theorem byte_setRs (s : State) (a : RunState) (k : Nat) : (s.setRs a).byte k = s.byte k := rfl
@[simp] theorem byte_setFetched (s : State) (a b : Word16) (k : Nat) : (s.setFetched a b).byte k = s.byte k := rfl
@[simp] theorem byte_setRecord (s : State) (a : StopReason) (b : Option Fault) (k : Nat) : (s.setRecord a b).byte k = s.byte k := rfl
@[simp] theorem byte_setEnv (s : State) (a : Env) (k : Nat) : (s.setEnv a).byte k = s.byte k := rfl
@[simp] theorem byte_setMem (s : State) (m : Memory) (k : Nat) : (s.setMem m).byte k = Memory.read s.params m k := rfl
@[simp] theorem byte_writeV (s : State) (x : Reg) (b : Byte) (k : Nat) : (writeV s x b).byte k = s.byte k := rfl
@[simp] theorem byte_writeFlag (s : State) (c : Bool) (k : Nat) : (writeFlag s c).byte k = s.byte k := rfl

/-- A byte of Memory depends on Memory and the parameters alone. -/
theorem byte_congr {s t : State} (hp : t.params = s.params) (hm : t.mem = s.mem) (k : Nat) : t.byte k = s.byte k := by
  simp only [State.byte, hp, hm]

@[simp] theorem byte_writeResultFlag (s : State) (x : Reg) (b : Byte) (c : Bool) (k : Nat) :
    (writeResultFlag s x b c).byte k = s.byte k := rfl

@[simp] theorem byte_present (s : State) (k : Nat) : (present s).byte k = s.byte k := rfl

@[simp] theorem byte_stop (r : StopReason) (s : State) (k : Nat) : (stop r s).byte k = s.byte k := rfl

@[simp] theorem byte_startRun (e : Addr) (s : State) (k : Nat) : (startRun e s).byte k = s.byte k := rfl

@[simp] theorem byte_skipIf (c : Bool) (s : State) (k : Nat) : (skipIf c s).byte k = s.byte k := by cases c <;> rfl

/-! ### The fields after a register write, a flag write, a present, a stop, a run -/

section writeV
variable (s : State) (x : Reg) (b : Byte)
@[simp] theorem writeV_params : (writeV s x b).params = s.params := rfl
@[simp] theorem writeV_v : (writeV s x b).v = s.v.set x.val b := rfl
@[simp] theorem writeV_i : (writeV s x b).i = s.i := rfl
@[simp] theorem writeV_pc : (writeV s x b).pc = s.pc := rfl
@[simp] theorem writeV_sp : (writeV s x b).sp = s.sp := rfl
@[simp] theorem writeV_stack : (writeV s x b).stack = s.stack := rfl
@[simp] theorem writeV_mem : (writeV s x b).mem = s.mem := rfl
@[simp] theorem writeV_fb : (writeV s x b).fb = s.fb := rfl
@[simp] theorem writeV_dt : (writeV s x b).dt = s.dt := rfl
@[simp] theorem writeV_st : (writeV s x b).st = s.st := rfl
@[simp] theorem writeV_keys : (writeV s x b).keys = s.keys := rfl
@[simp] theorem writeV_rs : (writeV s x b).rs = s.rs := rfl
@[simp] theorem writeV_ir : (writeV s x b).ir = s.ir := rfl
@[simp] theorem writeV_iaddr : (writeV s x b).iaddr = s.iaddr := rfl
@[simp] theorem writeV_stopReason : (writeV s x b).stopReason = s.stopReason := rfl
@[simp] theorem writeV_cause : (writeV s x b).cause = s.cause := rfl
@[simp] theorem writeV_env : (writeV s x b).env = s.env := rfl
end writeV

section writeFlag
variable (s : State) (c : Bool)
@[simp] theorem writeFlag_params : (writeFlag s c).params = s.params := rfl
@[simp] theorem writeFlag_i : (writeFlag s c).i = s.i := rfl
@[simp] theorem writeFlag_pc : (writeFlag s c).pc = s.pc := rfl
@[simp] theorem writeFlag_sp : (writeFlag s c).sp = s.sp := rfl
@[simp] theorem writeFlag_stack : (writeFlag s c).stack = s.stack := rfl
@[simp] theorem writeFlag_mem : (writeFlag s c).mem = s.mem := rfl
@[simp] theorem writeFlag_fb : (writeFlag s c).fb = s.fb := rfl
@[simp] theorem writeFlag_dt : (writeFlag s c).dt = s.dt := rfl
@[simp] theorem writeFlag_st : (writeFlag s c).st = s.st := rfl
@[simp] theorem writeFlag_keys : (writeFlag s c).keys = s.keys := rfl
@[simp] theorem writeFlag_rs : (writeFlag s c).rs = s.rs := rfl
@[simp] theorem writeFlag_ir : (writeFlag s c).ir = s.ir := rfl
@[simp] theorem writeFlag_iaddr : (writeFlag s c).iaddr = s.iaddr := rfl
@[simp] theorem writeFlag_stopReason : (writeFlag s c).stopReason = s.stopReason := rfl
@[simp] theorem writeFlag_cause : (writeFlag s c).cause = s.cause := rfl
@[simp] theorem writeFlag_env : (writeFlag s c).env = s.env := rfl
end writeFlag

section writeResultFlag
variable (s : State) (x : Reg) (b : Byte) (c : Bool)
@[simp] theorem writeResultFlag_params : (writeResultFlag s x b c).params = s.params := rfl
@[simp] theorem writeResultFlag_i : (writeResultFlag s x b c).i = s.i := rfl
@[simp] theorem writeResultFlag_pc : (writeResultFlag s x b c).pc = s.pc := rfl
@[simp] theorem writeResultFlag_sp : (writeResultFlag s x b c).sp = s.sp := rfl
@[simp] theorem writeResultFlag_stack : (writeResultFlag s x b c).stack = s.stack := rfl
@[simp] theorem writeResultFlag_mem : (writeResultFlag s x b c).mem = s.mem := rfl
@[simp] theorem writeResultFlag_fb : (writeResultFlag s x b c).fb = s.fb := rfl
@[simp] theorem writeResultFlag_dt : (writeResultFlag s x b c).dt = s.dt := rfl
@[simp] theorem writeResultFlag_st : (writeResultFlag s x b c).st = s.st := rfl
@[simp] theorem writeResultFlag_keys : (writeResultFlag s x b c).keys = s.keys := rfl
@[simp] theorem writeResultFlag_rs : (writeResultFlag s x b c).rs = s.rs := rfl
@[simp] theorem writeResultFlag_ir : (writeResultFlag s x b c).ir = s.ir := rfl
@[simp] theorem writeResultFlag_iaddr : (writeResultFlag s x b c).iaddr = s.iaddr := rfl
@[simp] theorem writeResultFlag_stopReason : (writeResultFlag s x b c).stopReason = s.stopReason := rfl
@[simp] theorem writeResultFlag_cause : (writeResultFlag s x b c).cause = s.cause := rfl
@[simp] theorem writeResultFlag_env : (writeResultFlag s x b c).env = s.env := rfl
end writeResultFlag

section present
variable (s : State)
@[simp] theorem present_params : (present s).params = s.params := rfl
@[simp] theorem present_v : (present s).v = s.v := rfl
@[simp] theorem present_i : (present s).i = s.i := rfl
@[simp] theorem present_pc : (present s).pc = s.pc := rfl
@[simp] theorem present_sp : (present s).sp = s.sp := rfl
@[simp] theorem present_stack : (present s).stack = s.stack := rfl
@[simp] theorem present_mem : (present s).mem = s.mem := rfl
@[simp] theorem present_fb : (present s).fb = s.fb := rfl
@[simp] theorem present_dt : (present s).dt = s.dt := rfl
@[simp] theorem present_st : (present s).st = s.st := rfl
@[simp] theorem present_keys : (present s).keys = s.keys := rfl
@[simp] theorem present_rs : (present s).rs = s.rs := rfl
@[simp] theorem present_ir : (present s).ir = s.ir := rfl
@[simp] theorem present_iaddr : (present s).iaddr = s.iaddr := rfl
@[simp] theorem present_stopReason : (present s).stopReason = s.stopReason := rfl
@[simp] theorem present_cause : (present s).cause = s.cause := rfl
@[simp] theorem present_env : (present s).env = { s.env with presented := s.fb :: s.env.presented } := rfl
end present

section stop
variable (r : StopReason) (s : State)
@[simp] theorem stop_params : (stop r s).params = s.params := rfl
@[simp] theorem stop_v : (stop r s).v = s.v := rfl
@[simp] theorem stop_i : (stop r s).i = s.i := rfl
@[simp] theorem stop_pc : (stop r s).pc = s.pc := rfl
@[simp] theorem stop_sp : (stop r s).sp = s.sp := rfl
@[simp] theorem stop_stack : (stop r s).stack = s.stack := rfl
@[simp] theorem stop_mem : (stop r s).mem = s.mem := rfl
@[simp] theorem stop_fb : (stop r s).fb = s.fb := rfl
@[simp] theorem stop_dt : (stop r s).dt = s.dt := rfl
@[simp] theorem stop_st : (stop r s).st = s.st := rfl
@[simp] theorem stop_keys : (stop r s).keys = s.keys := rfl
@[simp] theorem stop_rs : (stop r s).rs = .stopped := rfl
@[simp] theorem stop_ir : (stop r s).ir = s.ir := rfl
@[simp] theorem stop_iaddr : (stop r s).iaddr = s.iaddr := rfl
@[simp] theorem stop_stopReason : (stop r s).stopReason = r := rfl
@[simp] theorem stop_cause : (stop r s).cause = s.cause := rfl
@[simp] theorem stop_env : (stop r s).env = s.env := rfl
end stop

section startRun
variable (e : Addr) (s : State)
@[simp] theorem startRun_params : (startRun e s).params = s.params := rfl
@[simp] theorem startRun_v : (startRun e s).v = s.v := rfl
@[simp] theorem startRun_i : (startRun e s).i = s.i := rfl
@[simp] theorem startRun_pc : (startRun e s).pc = zext16 e := rfl
@[simp] theorem startRun_sp : (startRun e s).sp = s.sp := rfl
@[simp] theorem startRun_stack : (startRun e s).stack = s.stack := rfl
@[simp] theorem startRun_mem : (startRun e s).mem = s.mem := rfl
@[simp] theorem startRun_fb : (startRun e s).fb = s.fb := rfl
@[simp] theorem startRun_dt : (startRun e s).dt = s.dt := rfl
@[simp] theorem startRun_st : (startRun e s).st = s.st := rfl
@[simp] theorem startRun_keys : (startRun e s).keys = s.keys := rfl
@[simp] theorem startRun_rs : (startRun e s).rs = .running := rfl
@[simp] theorem startRun_ir : (startRun e s).ir = s.ir := rfl
@[simp] theorem startRun_iaddr : (startRun e s).iaddr = s.iaddr := rfl
@[simp] theorem startRun_stopReason : (startRun e s).stopReason = .none := rfl
@[simp] theorem startRun_cause : (startRun e s).cause = none := rfl
@[simp] theorem startRun_env : (startRun e s).env = s.env := rfl
end startRun

section skip
variable (s : State)
@[simp] theorem skip_params : (skip s).params = s.params := rfl
@[simp] theorem skip_v : (skip s).v = s.v := rfl
@[simp] theorem skip_i : (skip s).i = s.i := rfl
@[simp] theorem skip_pc : (skip s).pc = s.pc + 2 := rfl
@[simp] theorem skip_sp : (skip s).sp = s.sp := rfl
@[simp] theorem skip_stack : (skip s).stack = s.stack := rfl
@[simp] theorem skip_mem : (skip s).mem = s.mem := rfl
@[simp] theorem skip_fb : (skip s).fb = s.fb := rfl
@[simp] theorem skip_dt : (skip s).dt = s.dt := rfl
@[simp] theorem skip_st : (skip s).st = s.st := rfl
@[simp] theorem skip_keys : (skip s).keys = s.keys := rfl
@[simp] theorem skip_rs : (skip s).rs = s.rs := rfl
@[simp] theorem skip_ir : (skip s).ir = s.ir := rfl
@[simp] theorem skip_iaddr : (skip s).iaddr = s.iaddr := rfl
@[simp] theorem skip_stopReason : (skip s).stopReason = s.stopReason := rfl
@[simp] theorem skip_cause : (skip s).cause = s.cause := rfl
@[simp] theorem skip_env : (skip s).env = s.env := rfl
end skip

section skipIf
variable (c : Bool) (s : State)
@[simp] theorem skipIf_params : (skipIf c s).params = s.params := by cases c <;> rfl
@[simp] theorem skipIf_v : (skipIf c s).v = s.v := by cases c <;> rfl
@[simp] theorem skipIf_i : (skipIf c s).i = s.i := by cases c <;> rfl
theorem skipIf_pc : (skipIf c s).pc = if c then s.pc + 2 else s.pc := by cases c <;> rfl
@[simp] theorem skipIf_sp : (skipIf c s).sp = s.sp := by cases c <;> rfl
@[simp] theorem skipIf_stack : (skipIf c s).stack = s.stack := by cases c <;> rfl
@[simp] theorem skipIf_mem : (skipIf c s).mem = s.mem := by cases c <;> rfl
@[simp] theorem skipIf_fb : (skipIf c s).fb = s.fb := by cases c <;> rfl
@[simp] theorem skipIf_dt : (skipIf c s).dt = s.dt := by cases c <;> rfl
@[simp] theorem skipIf_st : (skipIf c s).st = s.st := by cases c <;> rfl
@[simp] theorem skipIf_keys : (skipIf c s).keys = s.keys := by cases c <;> rfl
@[simp] theorem skipIf_rs : (skipIf c s).rs = s.rs := by cases c <;> rfl
@[simp] theorem skipIf_ir : (skipIf c s).ir = s.ir := by cases c <;> rfl
@[simp] theorem skipIf_iaddr : (skipIf c s).iaddr = s.iaddr := by cases c <;> rfl
@[simp] theorem skipIf_stopReason : (skipIf c s).stopReason = s.stopReason := by cases c <;> rfl
@[simp] theorem skipIf_cause : (skipIf c s).cause = s.cause := by cases c <;> rfl
@[simp] theorem skipIf_env : (skipIf c s).env = s.env := by cases c <;> rfl
@[simp] theorem readV_skipIf (r : Reg) : readV (skipIf c s) r = readV s r := by cases c <;> rfl
end skipIf

@[simp] theorem readV_stop (c : StopReason) (s : State) (r : Reg) : readV (stop c s) r = readV s r := rfl

@[simp] theorem readV_startRun (e : Addr) (s : State) (r : Reg) : readV (startRun e s) r = readV s r := rfl

@[simp] theorem readV_present (s : State) (r : Reg) : readV (present s) r = readV s r := rfl

/-! ### Ranges of Memory -/

/-- The whole of what a load can do (R61, R68, R69). -/
theorem loadBytes_eq_some {s : State} {a n : Nat} {bs : List Byte} :
    loadBytes s a n = some bs ↔ a + n ≤ Config.memSize ∧ bs = Memory.readList s.params s.mem a n := by
  unfold loadBytes
  split <;> simp_all [eq_comm]

theorem loadBytes_eq_none {s : State} {a n : Nat} : loadBytes s a n = none ↔ Config.memSize < a + n := by
  unfold loadBytes
  split <;> simp_all

/-- The whole of what a store can do (R61, R68, R69, R70). -/
theorem storeBytes_eq_some {s t : State} {a : Nat} {bs : List Byte} :
    storeBytes s a bs = some t ↔
      a + bs.length ≤ Config.memSize ∧ t = s.setMem (Memory.writeList s.params s.mem a bs) := by
  unfold storeBytes
  split <;> simp_all [eq_comm]

theorem storeBytes_eq_none {s : State} {a : Nat} {bs : List Byte} :
    storeBytes s a bs = none ↔ Config.memSize < a + bs.length := by
  unfold storeBytes
  split <;> simp_all

/-- The fetch inside Memory (R65). -/
theorem fetchWord_in {s : State} {a : Nat} (h : a + 2 ≤ Config.memSize) :
    fetchWord s a = some (wordOfBytes (s.byte a) (s.byte (a + 1))) := by
  simp only [fetchWord, loadBytes, h, if_true]
  rfl

theorem fetchWord_out {s : State} {a : Nat} (h : Config.memSize < a + 2) : fetchWord s a = none := by
  simp [fetchWord, loadBytes_eq_none.mpr h]

/-! ### The call stack -/

/-- The whole of what a push can do (R26). -/
theorem push_eq_some {a : Word16} {s t : State} :
    push a s = some t ↔ s.sp ≠ s.params.stackDepth ∧ t = (s.setStack (s.stack.set s.sp a)).setSp (s.sp + 1) := by
  unfold push
  split <;> simp_all [eq_comm]

theorem push_eq_none {a : Word16} {s : State} : push a s = none ↔ s.sp = s.params.stackDepth := by
  unfold push
  split <;> simp_all

/-- The whole of what a pop can do (R26). -/
theorem pop_eq_some {a : Word16} {s t : State} :
    pop s = some (a, t) ↔ s.sp ≠ 0 ∧ a = s.stack.getD (s.sp - 1) 0 ∧ t = s.setSp (s.sp - 1) := by
  unfold pop
  split <;> simp_all [eq_comm]

theorem pop_eq_none {s : State} : pop s = none ↔ s.sp = 0 := by
  unfold pop
  split <;> simp_all

/-! ### Inputs -/

theorem Port.draw_cons {α : Type} (free : Nat → α) (a : α) (rest : List α) (k : Nat) :
    Port.draw free { pending := a :: rest, drawn := k } = (a, { pending := rest, drawn := k + 1 }) := rfl

theorem Port.draw_nil {α : Type} (free : Nat → α) (k : Nat) :
    Port.draw free { pending := [], drawn := k } = (free k, { pending := [], drawn := k + 1 }) := rfl

/-- Every sample counts as one, whichever way it came. -/
@[simp] theorem Port.draw_drawn {α : Type} (free : Nat → α) (p : Port α) : (p.draw free).2.drawn = p.drawn + 1 := by
  unfold Port.draw
  split <;> rfl

/-- Sampling `timerDue` gives its port's next value and changes nothing but that port. -/
theorem drawTimerDue_eq (s : State) : drawTimerDue s = ((s.env.timerDue.draw Config.timerDue).1, s.setEnv { s.env with timerDue := (s.env.timerDue.draw Config.timerDue).2 }) := rfl

/-- Sampling `poll` gives its port's next value and changes nothing but that port. -/
theorem drawPoll_eq (s : State) : drawPoll s = ((s.env.poll.draw Config.poll).1, s.setEnv { s.env with poll := (s.env.poll.draw Config.poll).2 }) := rfl

/-- Sampling `rand` gives its port's next value and changes nothing but that port. -/
theorem drawRand_eq (s : State) : drawRand s = ((s.env.rand.draw Config.rand).1, s.setEnv { s.env with rand := (s.env.rand.draw Config.rand).2 }) := rfl

/-- Sampling `waitEvent` gives its port's next value and changes nothing but that port. -/
theorem drawWaitEvent_eq (s : State) : drawWaitEvent s = ((s.env.waitEvent.draw Config.waitEvent).1, s.setEnv { s.env with waitEvent := (s.env.waitEvent.draw Config.waitEvent).2 }) := rfl

end Sys2Proof.Machine
end

