-- ==== Sys2Proof/Laws/Display.lean ====
section
/-! SUPPORT. The display grid: cells after an XOR and after a blit, and that its size is kept. -/

namespace Sys2Proof.Machine

/-! ### Size -/

theorem blankGrid_shaped (p : Params) : Grid.shaped p (blankGrid p) := by
  refine ⟨by simp [blankGrid], fun row h => ?_⟩
  rw [List.eq_of_mem_replicate h, List.length_replicate]

theorem Grid.xorCell_shaped {p : Params} {g : Grid} (r c : Nat) (b : Bool) (h : Grid.shaped p g) :
    Grid.shaped p (Grid.xorCell g r c b) := by
  refine ⟨by simp [Grid.xorCell, h.1], fun row hr => ?_⟩
  obtain ⟨k, hk, rfl⟩ := List.getElem_of_mem hr
  simp only [Grid.xorCell, List.getElem_modify]
  split
  · rw [List.length_modify]; exact h.2 _ (List.getElem_mem _)
  · exact h.2 _ (List.getElem_mem _)

theorem blit_shaped {p : Params} {g : Grid} (ps : List Pixel) (h : Grid.shaped p g) : Grid.shaped p (blit g ps) := by
  induction ps generalizing g with
  | nil => exact h
  | cons q ps ih => exact ih (Grid.xorCell_shaped _ _ _ h)

/-! ### Cells -/

theorem Grid.cell_in {g : Grid} {r c : Nat} (hr : r < g.length) (hc : c < g[r].length) : Grid.cell g r c = g[r][c] := by
  simp [Grid.cell, List.getD_eq_getElem?_getD, hr, hc]

/-- A blank display has no lit cell. -/
@[simp] theorem cell_blankGrid (p : Params) (r c : Nat) : Grid.cell (blankGrid p) r c = false := by
  simp only [Grid.cell, blankGrid, List.getD_eq_getElem?_getD, List.getElem?_replicate]
  split
  · simp only [Option.getD_some, List.getElem?_replicate]; split <;> rfl
  · simp

/-- An XOR into one cell of the grid changes that cell and no other. -/
theorem Grid.cell_xorCell {p : Params} {g : Grid} {r c : Nat} (b : Bool) (hg : Grid.shaped p g) (hr : r < p.dispH)
    (hc : c < p.dispW) (r' c' : Nat) :
    Grid.cell (Grid.xorCell g r c b) r' c' = (Grid.cell g r' c' ^^ (decide (r' = r ∧ c' = c) && b)) := by
  have hr1 : r < g.length := hg.1 ▸ hr
  have hc1 : c < g[r].length := by rw [hg.2 _ (List.getElem_mem hr1)]; exact hc
  simp only [Grid.cell, Grid.xorCell, List.getD_eq_getElem?_getD, List.getElem?_modify]
  by_cases h1 : r' = r
  · subst h1
    simp only [hr1, List.getElem?_eq_getElem, Option.map_eq_map, Option.map_some, if_true, Option.getD_some, true_and,
      List.getElem?_modify]
    by_cases h2 : c' = c
    · subst h2
      simp [hc1]
    · simp [h2, Ne.symm h2]
  · simp [h1, Ne.symm h1]

/-- A cell after a blit: its old value XOR the bits of the pixels that land on it (R224). -/
theorem cell_blit {p : Params} {g : Grid} (ps : List Pixel) (hg : Grid.shaped p g)
    (hps : ∀ q ∈ ps, q.row < p.dispH ∧ q.col < p.dispW) (r c : Nat) :
    Grid.cell (blit g ps) r c =
      ps.foldl (fun v q => v ^^ (decide (r = q.row ∧ c = q.col) && q.bit)) (Grid.cell g r c) := by
  induction ps generalizing g with
  | nil => rfl
  | cons q ps ih =>
    have hq := hps q List.mem_cons_self
    rw [blit, List.foldl_cons, List.foldl_cons, ← blit,
      ih (Grid.xorCell_shaped _ _ _ hg) fun q' h => hps q' (List.mem_cons_of_mem _ h), Grid.cell_xorCell _ hg hq.1 hq.2]

/-- The pixels of a sprite, one by one (R222, R223). -/
theorem mem_spritePixels {p : Params} {px py row : Nat} {bs : List Byte} {q : Pixel} :
    q ∈ spritePixels p px py row bs ↔
      ∃ k, ∃ h : k < bs.length, ∃ col < 8,
        q = { row := (py + (row + k)) % p.dispH, col := (px + col) % p.dispW, bit := bs[k].getLsbD (7 - col) } := by
  induction bs generalizing row with
  | nil => simp [spritePixels]
  | cons b bs ih =>
    rw [spritePixels, List.mem_append, ih]
    constructor
    · rintro (h | ⟨k, hk, col, hc, rfl⟩)
      · obtain ⟨col, hc, rfl⟩ := List.mem_map.mp h
        exact ⟨0, by simp, col, List.mem_range.mp hc, by simp⟩
      · exact ⟨k + 1, by simpa using hk, col, hc, by simp [Nat.add_assoc, Nat.add_comm 1 k]⟩
    · rintro ⟨k, hk, col, hc, rfl⟩
      cases k with
      | zero => exact .inl (List.mem_map.mpr ⟨col, List.mem_range.mpr hc, by simp⟩)
      | succ k => exact .inr ⟨k, by simpa using hk, col, hc, by simp [Nat.add_assoc, Nat.add_comm 1 k]⟩

/-- Every pixel of a sprite lands on the display (R223: coordinates wrap, never clip). -/
theorem spritePixels_on_grid {p : Params} (hw : 0 < p.dispW) (hh : 0 < p.dispH) (px py row : Nat) (bs : List Byte) :
    ∀ q ∈ spritePixels p px py row bs, q.row < p.dispH ∧ q.col < p.dispW := by
  intro q hq
  obtain ⟨k, _, col, _, rfl⟩ := mem_spritePixels.mp hq
  exact ⟨Nat.mod_lt _ hh, Nat.mod_lt _ hw⟩

/-- Some lit sprite bit meets a lit cell, and nothing else, is a collision (R224). -/
theorem collides_eq_true {g : Grid} {ps : List Pixel} :
    collides g ps = true ↔ ∃ q ∈ ps, q.bit = true ∧ Grid.cell g q.row q.col = true := by
  simp [collides]

end Sys2Proof.Machine
end

