-- ==== Sys2Proof/Laws/Step.lean ====
section
/-! SUPPORT. What one step can do, said once: the fields after each phase of a cycle, and the cases of a cycle, of a key-wait step and of a host step. -/

namespace Sys2Proof.Machine

/-! ### Phases -/

@[simp] theorem tick_params (s : State) : (tick s).params = s.params := by unfold tick; dsimp only; split <;> rfl
@[simp] theorem tick_v (s : State) : (tick s).v = s.v := by unfold tick; dsimp only; split <;> rfl
@[simp] theorem tick_i (s : State) : (tick s).i = s.i := by unfold tick; dsimp only; split <;> rfl
@[simp] theorem tick_pc (s : State) : (tick s).pc = s.pc := by unfold tick; dsimp only; split <;> rfl
@[simp] theorem tick_sp (s : State) : (tick s).sp = s.sp := by unfold tick; dsimp only; split <;> rfl
@[simp] theorem tick_stack (s : State) : (tick s).stack = s.stack := by unfold tick; dsimp only; split <;> rfl
@[simp] theorem tick_mem (s : State) : (tick s).mem = s.mem := by unfold tick; dsimp only; split <;> rfl
@[simp] theorem tick_fb (s : State) : (tick s).fb = s.fb := by unfold tick; dsimp only; split <;> rfl
@[simp] theorem tick_keys (s : State) : (tick s).keys = s.keys := by unfold tick; dsimp only; split <;> rfl
@[simp] theorem tick_rs (s : State) : (tick s).rs = s.rs := by unfold tick; dsimp only; split <;> rfl
@[simp] theorem tick_ir (s : State) : (tick s).ir = s.ir := by unfold tick; dsimp only; split <;> rfl
@[simp] theorem tick_iaddr (s : State) : (tick s).iaddr = s.iaddr := by unfold tick; dsimp only; split <;> rfl
@[simp] theorem tick_stopReason (s : State) : (tick s).stopReason = s.stopReason := by unfold tick; dsimp only; split <;> rfl
@[simp] theorem tick_cause (s : State) : (tick s).cause = s.cause := by unfold tick; dsimp only; split <;> rfl

@[simp] theorem readV_tick (s : State) (r : Reg) : readV (tick s) r = readV s r := by simp [readV]

@[simp] theorem byte_tick (s : State) (k : Nat) : (tick s).byte k = s.byte k := by simp [State.byte]

/-- The boundary after the tick: one strobe sample taken, nothing else (R263). -/
theorem tick_env (s : State) :
    (tick s).env = { s.env with timerDue := (s.env.timerDue.draw Config.timerDue).2 } := by
  unfold tick; dsimp only; split <;> rfl

/-- `DT` after the tick (R124). -/
theorem tick_dt (s : State) :
    (tick s).dt = if (s.env.timerDue.draw Config.timerDue).1 then countDown s.dt else s.dt := by
  unfold tick; dsimp only [drawTimerDue]; split <;> simp_all

/-- `ST` after the tick (R124). -/
theorem tick_st (s : State) :
    (tick s).st = if (s.env.timerDue.draw Config.timerDue).1 then countDown s.st else s.st := by
  unfold tick; dsimp only [drawTimerDue]; split <;> simp_all

/-- A decrement is by one at most and stops at 0 (R124). -/
theorem countDown_toNat (b : Byte) : (countDown b).toNat = b.toNat - 1 := by
  unfold countDown
  split
  · next h => simp [h]
  · next h =>
    have : b.toNat ≠ 0 := fun e => h (BitVec.eq_of_toNat_eq (by simpa using e))
    have hb := b.isLt
    rw [BitVec.toNat_sub]
    simp
    omega

/-- A key's bit after one event (R125). -/
theorem getLsbD_latchEvent (keys : Word16) (e : KeyEvent) (k : Key) :
    (latchEvent keys e).getLsbD k.val = (keys.getLsbD k.val || (e.pressed && decide (e.key = k))) := by
  unfold latchEvent
  have hk : k.val < 16 := k.isLt
  by_cases hp : e.pressed = true
  · by_cases he : e.key = k
    · subst he
      simp [hp, hk]
    · have hne : e.key.val ≠ k.val := fun h => he (Fin.ext h)
      simp only [hp, if_true, he, decide_false, Bool.and_false, Bool.or_false, BitVec.getLsbD_or,
        BitVec.getLsbD_shiftLeft]
      by_cases hlt : k.val < e.key.val
      · simp [hlt]
      · have : k.val - e.key.val ≠ 0 := by omega
        simp [this]
  · simp [hp]

/-- A key's bit after a poll: set before, or pressed in it; order and duplicates do not matter (R125, R264). -/
theorem getLsbD_latch (l : List KeyEvent) (s : State) (k : Key) :
    (latch l s).keys.getLsbD k.val = (s.keys.getLsbD k.val || l.any fun e => e.pressed && decide (e.key = k)) := by
  have h : ∀ keys : Word16, (l.foldl latchEvent keys).getLsbD k.val
      = (keys.getLsbD k.val || l.any fun e => e.pressed && decide (e.key = k)) := by
    induction l with
    | nil => simp
    | cons e l ih => intro keys; rw [List.foldl_cons, ih, getLsbD_latchEvent, List.any_cons, Bool.or_assoc]
  exact h s.keys

@[simp] theorem latch_params (l : List KeyEvent) (s : State) : (latch l s).params = s.params := rfl
@[simp] theorem latch_v (l : List KeyEvent) (s : State) : (latch l s).v = s.v := rfl
@[simp] theorem latch_i (l : List KeyEvent) (s : State) : (latch l s).i = s.i := rfl
@[simp] theorem latch_pc (l : List KeyEvent) (s : State) : (latch l s).pc = s.pc := rfl
@[simp] theorem latch_sp (l : List KeyEvent) (s : State) : (latch l s).sp = s.sp := rfl
@[simp] theorem latch_stack (l : List KeyEvent) (s : State) : (latch l s).stack = s.stack := rfl
@[simp] theorem latch_mem (l : List KeyEvent) (s : State) : (latch l s).mem = s.mem := rfl
@[simp] theorem latch_fb (l : List KeyEvent) (s : State) : (latch l s).fb = s.fb := rfl
@[simp] theorem latch_dt (l : List KeyEvent) (s : State) : (latch l s).dt = s.dt := rfl
@[simp] theorem latch_st (l : List KeyEvent) (s : State) : (latch l s).st = s.st := rfl
@[simp] theorem latch_rs (l : List KeyEvent) (s : State) : (latch l s).rs = s.rs := rfl
@[simp] theorem latch_ir (l : List KeyEvent) (s : State) : (latch l s).ir = s.ir := rfl
@[simp] theorem latch_iaddr (l : List KeyEvent) (s : State) : (latch l s).iaddr = s.iaddr := rfl
@[simp] theorem latch_stopReason (l : List KeyEvent) (s : State) : (latch l s).stopReason = s.stopReason := rfl
@[simp] theorem latch_cause (l : List KeyEvent) (s : State) : (latch l s).cause = s.cause := rfl
@[simp] theorem latch_env (l : List KeyEvent) (s : State) : (latch l s).env = s.env := rfl

@[simp] theorem advance_params (w : Word16) (s : State) : (advance w s).params = s.params := rfl
@[simp] theorem advance_v (w : Word16) (s : State) : (advance w s).v = s.v := rfl
@[simp] theorem advance_i (w : Word16) (s : State) : (advance w s).i = s.i := rfl
@[simp] theorem advance_pc (w : Word16) (s : State) : (advance w s).pc = s.pc + 2 := rfl
@[simp] theorem advance_sp (w : Word16) (s : State) : (advance w s).sp = s.sp := rfl
@[simp] theorem advance_stack (w : Word16) (s : State) : (advance w s).stack = s.stack := rfl
@[simp] theorem advance_mem (w : Word16) (s : State) : (advance w s).mem = s.mem := rfl
@[simp] theorem advance_fb (w : Word16) (s : State) : (advance w s).fb = s.fb := rfl
@[simp] theorem advance_dt (w : Word16) (s : State) : (advance w s).dt = s.dt := rfl
@[simp] theorem advance_st (w : Word16) (s : State) : (advance w s).st = s.st := rfl
@[simp] theorem advance_keys (w : Word16) (s : State) : (advance w s).keys = s.keys := rfl
@[simp] theorem advance_rs (w : Word16) (s : State) : (advance w s).rs = s.rs := rfl
@[simp] theorem advance_ir (w : Word16) (s : State) : (advance w s).ir = w := rfl
@[simp] theorem advance_iaddr (w : Word16) (s : State) : (advance w s).iaddr = s.pc := rfl
@[simp] theorem advance_stopReason (w : Word16) (s : State) : (advance w s).stopReason = s.stopReason := rfl
@[simp] theorem advance_cause (w : Word16) (s : State) : (advance w s).cause = s.cause := rfl
@[simp] theorem advance_env (w : Word16) (s : State) : (advance w s).env = s.env := rfl

@[simp] theorem readV_latch (l : List KeyEvent) (s : State) (r : Reg) : readV (latch l s) r = readV s r := rfl

@[simp] theorem readV_advance (w : Word16) (s : State) (r : Reg) : readV (advance w s) r = readV s r := rfl

@[simp] theorem byte_latch (l : List KeyEvent) (s : State) (k : Nat) : (latch l s).byte k = s.byte k := rfl

@[simp] theorem byte_advance (w : Word16) (s : State) (k : Nat) : (advance w s).byte k = s.byte k := rfl

/-- The poll of a cycle is the next sample of its port, whatever the tick did. -/
theorem poll_of_tick (s : State) :
    drawPoll (tick s) = ((s.env.poll.draw Config.poll).1,
      (tick s).setEnv { (tick s).env with poll := (s.env.poll.draw Config.poll).2 }) := by
  rw [drawPoll_eq, tick_env]

/-! ### The cases of a step -/

/-- The word at `PC` (R65). -/
abbrev State.wordAtPc (s : State) : Word16 := wordOfBytes (s.byte s.pc.toNat) (s.byte (s.pc.toNat + 1))

/-- The state in which phase P5 begins, after a poll of the events `l` (P1 to P4). -/
abbrev State.prepared (s : State) (l : List KeyEvent) : State :=
  advance s.wordAtPc (latch l (drawPoll (tick s)).2)

theorem pcHalts_eq_false {s : State} : pcHalts s = false ↔ s.pc.toNat ≤ 0xFFE := by
  simp [pcHalts, Config.memSize]

theorem cycle_halt {s : State} (h : pcHalts s = true) : cycle s = .next (stop .halt s) := by
  rw [cycle, if_pos h]

theorem cycle_quit {s : State} (h : pcHalts s = false) (hq : (s.env.poll.draw Config.poll).1 = .quit) :
    cycle s = .next (stop .quit (drawPoll (tick s)).2) := by
  rw [cycle, h, if_neg Bool.false_ne_true, refreshExecute, poll_of_tick, hq]

theorem cycle_events {s : State} {l : List KeyEvent} (h : pcHalts s = false)
    (hl : (s.env.poll.draw Config.poll).1 = .events l) :
    cycle s = decodeExecute s.wordAtPc (s.prepared l) := by
  rw [cycle, h, if_neg Bool.false_ne_true, refreshExecute, poll_of_tick, hl]
  simp only [fetchExecute]
  have hin : s.pc.toNat + 2 ≤ Config.memSize := by have := pcHalts_eq_false.mp h; simp only [Config.memSize]; omega
  rw [fetchWord_in (by simpa using hin)]
  simp [State.prepared, poll_of_tick]

/-- Everything a cycle can be: a natural halt, a quit, or the decoding and execution of the word at `PC`. -/
theorem cycle_cases (s : State) :
    (pcHalts s = true ∧ cycle s = .next (stop .halt s)) ∨
    (pcHalts s = false ∧ (s.env.poll.draw Config.poll).1 = .quit ∧
      cycle s = .next (stop .quit (drawPoll (tick s)).2)) ∨
    (pcHalts s = false ∧ ∃ l, (s.env.poll.draw Config.poll).1 = .events l ∧
      ((∃ e, decodeWord s.wordAtPc = .error e ∧ cycle s = raise .illegalOpcode (s.prepared l)) ∨
       (∃ i, decodeWord s.wordAtPc = .ok i ∧ cycle s = exec i (s.prepared l)))) := by
  cases h : pcHalts s with
  | true => exact .inl ⟨rfl, cycle_halt h⟩
  | false =>
    refine .inr ?_
    cases hp : (s.env.poll.draw Config.poll).1 with
    | quit => exact .inl ⟨rfl, rfl, cycle_quit h hp⟩
    | events l =>
      refine .inr ⟨rfl, l, rfl, ?_⟩
      rw [cycle_events h hp]
      cases hd : decodeWord s.wordAtPc with
      | error e => exact .inl ⟨e, rfl, by simp only [decodeExecute, hd]⟩
      | ok i => exact .inr ⟨i, rfl, by simp only [decodeExecute, hd]⟩

/-- Everything a key-wait step can be (R130). -/
theorem waitStep_cases (s : State) :
    ((drawWaitEvent s).1 = .nothing ∧ waitStep s = .next (drawWaitEvent s).2) ∨
    (∃ k, (drawWaitEvent s).1 = .keyup k ∧
      waitStep s = .next ((writeV (drawWaitEvent s).2 (fieldX s.ir) (BitVec.ofNat 8 k.val)).setRs .running)) ∨
    ((drawWaitEvent s).1 = .quit ∧ waitStep s = .next (stop .quit (drawWaitEvent s).2)) := by
  unfold waitStep
  cases h : (drawWaitEvent s).1 with
  | nothing => exact .inl ⟨rfl, by simp only [h]⟩
  | keyup k => exact .inr (.inl ⟨k, rfl, by simp only [h]⟩)
  | quit => exact .inr (.inr ⟨rfl, by simp only [h]⟩)

theorem step_stopped {s : State} (h : s.rs = .stopped) : step s = hostStep s := by rw [step, h]

theorem step_running {s : State} (h : s.rs = .running) : step s = cycle s := by rw [step, h]

theorem step_waitk {s : State} (h : s.rs = .waitk) : step s = waitStep s := by rw [step, h]

end Sys2Proof.Machine
end

