-- ==== Sys2Proof/Laws/Frame.lean ====
section
/-! SUPPORT. Frames: their algebra, the frame of every shared operation, the entry of a fault, and the flag computations as numbers. -/

namespace Sys2Proof.Machine

/-! ### Algebra -/

theorem Part.kept_refl (q : Part) (s : State) : q.kept s s := by cases q <;> simp [Part.kept]

theorem Part.kept_trans {q : Part} {s t u : State} (h : q.kept s t) (k : q.kept t u) : q.kept s u := by
  cases q <;> simp_all [Part.kept]

theorem Frame.refl (rs : List Reg) (ps : List Part) (s : State) : Frame rs ps s s :=
  ⟨fun _ _ => rfl, fun q _ => q.kept_refl s, rfl⟩

/-- What may change may be more. -/
theorem Frame.mono {rs rs' : List Reg} {ps ps' : List Part} {s t : State} (h : Frame rs ps s t) (hr : rs ⊆ rs')
    (hp : ps ⊆ ps') : Frame rs' ps' s t :=
  ⟨fun r h' => h.1 r fun h2 => h' (hr h2), fun q h' => h.2.1 q fun h2 => h' (hp h2), h.2.2⟩

theorem Frame.trans {rs : List Reg} {ps : List Part} {s t u : State} (h : Frame rs ps s t) (k : Frame rs ps t u) :
    Frame rs ps s u :=
  ⟨fun r hr => (k.1 r hr).trans (h.1 r hr), fun q hq => Part.kept_trans (h.2.1 q hq) (k.2.1 q hq), k.2.2.trans h.2.2⟩

/-! ### Shared operations -/

theorem frame_setV {rs : List Reg} {s : State} {v : Vector Byte 16} (h : ∀ r : Reg, r ∉ rs → v[r.val] = readV s r) :
    Frame rs [] s (s.setV v) :=
  ⟨fun r hr => by rw [readV_setV, h r hr], fun q _ => by cases q <;> simp [Part.kept], rfl⟩

theorem frame_writeV (s : State) (x : Reg) (b : Byte) : Frame [x] [] s (writeV s x b) :=
  ⟨fun r hr => readV_writeV_ne s b (by simpa using hr), fun q _ => by cases q <;> simp [Part.kept], rfl⟩

theorem frame_writeFlag (s : State) (c : Bool) : Frame [vf] [] s (writeFlag s c) := frame_writeV s vf _

theorem frame_writeResultFlag (s : State) (x : Reg) (b : Byte) (c : Bool) :
    Frame [x, vf] [] s (writeResultFlag s x b c) :=
  Frame.trans ((frame_writeV s x b).mono (by simp) (by simp)) ((frame_writeFlag _ c).mono (by simp) (by simp))

theorem frame_setI (s : State) (a : Addr) : Frame [] [.i] s (s.setI a) :=
  ⟨fun _ _ => rfl, fun q h => by cases q <;> simp_all [Part.kept], rfl⟩

theorem frame_setPc (s : State) (a : Word16) : Frame [] [.pc] s (s.setPc a) :=
  ⟨fun _ _ => rfl, fun q h => by cases q <;> simp_all [Part.kept], rfl⟩

theorem frame_skipIf (c : Bool) (s : State) : Frame [] [.pc] s (skipIf c s) := by
  cases c
  · exact Frame.refl _ _ s
  · exact frame_setPc s _

theorem frame_setSp (s : State) (a : Nat) : Frame [] [.sp] s (s.setSp a) :=
  ⟨fun _ _ => rfl, fun q h => by cases q <;> simp_all [Part.kept], rfl⟩

theorem frame_setStack (s : State) (a : List Word16) : Frame [] [.stack] s (s.setStack a) :=
  ⟨fun _ _ => rfl, fun q h => by cases q <;> simp_all [Part.kept], rfl⟩

theorem frame_setMem (s : State) (m : Memory) : Frame [] [.mem] s (s.setMem m) :=
  ⟨fun _ _ => rfl, fun q h => by cases q <;> simp_all [Part.kept], rfl⟩

theorem frame_setFb (s : State) (g : Grid) : Frame [] [.fb] s (s.setFb g) :=
  ⟨fun _ _ => rfl, fun q h => by cases q <;> simp_all [Part.kept], rfl⟩

theorem frame_present (s : State) : Frame [] [.presented] s (present s) :=
  ⟨fun _ _ => rfl, fun q h => by cases q <;> simp_all [Part.kept], rfl⟩

theorem frame_setDt (s : State) (b : Byte) : Frame [] [.dt] s (s.setDt b) :=
  ⟨fun _ _ => rfl, fun q h => by cases q <;> simp_all [Part.kept], rfl⟩

theorem frame_setSt (s : State) (b : Byte) : Frame [] [.st] s (s.setSt b) :=
  ⟨fun _ _ => rfl, fun q h => by cases q <;> simp_all [Part.kept], rfl⟩

theorem frame_setKeys (s : State) (k : Word16) : Frame [] [.keys] s (s.setKeys k) :=
  ⟨fun _ _ => rfl, fun q h => by cases q <;> simp_all [Part.kept], rfl⟩

theorem frame_setRs (s : State) (r : RunState) : Frame [] [.rs] s (s.setRs r) :=
  ⟨fun _ _ => rfl, fun q h => by cases q <;> simp_all [Part.kept], rfl⟩

theorem frame_stop (r : StopReason) (s : State) : Frame [] [.rs, .record] s (stop r s) :=
  ⟨fun _ _ => rfl, fun q h => by cases q <;> simp_all [Part.kept], rfl⟩

theorem frame_startRun (e : Addr) (s : State) : Frame [] [.pc, .rs, .record] s (startRun e s) :=
  ⟨fun _ _ => rfl, fun q h => by cases q <;> simp_all [Part.kept], rfl⟩

theorem frame_drawRand (s : State) : Frame [] [.rand] s (drawRand s).2 :=
  ⟨fun _ _ => rfl, fun q h => by cases q <;> simp_all [Part.kept, drawRand_eq], rfl⟩

theorem frame_drawWaitEvent (s : State) : Frame [] [.waitEvent] s (drawWaitEvent s).2 :=
  ⟨fun _ _ => rfl, fun q h => by cases q <;> simp_all [Part.kept, drawWaitEvent_eq], rfl⟩

theorem frame_drawPoll (s : State) : Frame [] [.poll] s (drawPoll s).2 :=
  ⟨fun _ _ => rfl, fun q h => by cases q <;> simp_all [Part.kept, drawPoll_eq], rfl⟩

theorem frame_tick (s : State) : Frame [] [.dt, .st, .timerDue] s (tick s) :=
  ⟨fun r _ => readV_tick s r, fun q h => by cases q <;> simp_all [Part.kept, tick_env], tick_params s⟩

/-- P1 to P4 change the timers, the latch, the two sampled inputs, the fetch record and `PC`, and nothing else. -/
theorem frame_prepared (s : State) (l : List KeyEvent) :
    Frame [] [.pc, .fetched, .dt, .st, .keys, .timerDue, .poll] s (s.prepared l) := by
  have h1 := (frame_tick s).mono (rs' := []) (ps' := [.pc, .fetched, .dt, .st, .keys, .timerDue, .poll]) (by simp) (by simp)
  have h2 := (frame_drawPoll (tick s)).mono (rs' := []) (ps' := [.pc, .fetched, .dt, .st, .keys, .timerDue, .poll])
    (by simp) (by simp)
  refine (h1.trans h2).trans ⟨fun _ _ => rfl, fun q h => ?_, rfl⟩
  cases q <;> simp_all [Part.kept]

/-- `raise` answers the entry of its fault. -/
theorem raise_entry (f : Fault) (s : State) : ∃ t, raise f s = .next t ∧ FaultEntry f s t :=
  ⟨_, rfl, rfl, rfl, rfl, fun _ _ => rfl, fun q h => by cases q <;> simp_all [Part.kept], rfl⟩

/-! ### Flags as numbers -/

theorem sum9_toNat (a b : Byte) : (sum9 a b).toNat = a.toNat + b.toNat := by
  have := a.isLt
  have := b.isLt
  simp [sum9, BitVec.toNat_add]
  omega

/-- The carry is the sum exceeding 255 (R177). -/
theorem carry_eq (a b : Byte) : carry a b = decide (255 < a.toNat + b.toNat) := by
  have h : carry a b = decide (256 ≤ (sum9 a b).toNat) := BitVec.msb_eq_decide (sum9 a b)
  rw [h, sum9_toNat]
  simp only [decide_eq_decide]
  omega

theorem highBit_eq (a : Byte) : highBit a = decide (128 ≤ a.toNat) := BitVec.msb_eq_decide a

theorem lowBit_eq (a : Byte) : lowBit a = decide (a.toNat % 2 = 1) := by
  simp [lowBit, BitVec.getLsbD, Nat.testBit_zero]

theorem sum13_toNat (i : Addr) (b : Byte) : (sum13 i b).toNat = i.toNat + b.toNat := by
  have := i.isLt
  have := b.isLt
  simp [sum13, BitVec.toNat_add]
  omega

theorem flagByte_eq (c : Bool) : flagByte c = if c then 1 else 0 := rfl

/-! ### The key query -/

/-- The whole of what a key query can do (R243, R244). -/
theorem queryKey_cases (s : State) (k : Key) :
    (keyDown s k = true ∧ queryKey s k = (true, s.setKeys 0)) ∨ (keyDown s k = false ∧ queryKey s k = (false, s)) := by
  unfold queryKey
  cases h : keyDown s k
  · exact .inr ⟨rfl, rfl⟩
  · exact .inl ⟨rfl, rfl⟩

end Sys2Proof.Machine
end

