-- ==== Sys2Proof/Laws/PerInstr.lean ====
section
/-! SUPPORT. For every instruction: its encoding carries the fixed bits of the row of the opcode table it stands in (R94). -/

namespace Sys2Proof.Laws.FixedBits

/-- The encoded word, masked, is the fixed bits of a row of the table that bears the instruction's mnemonic. -/
def Statement (i : Instr) : Prop :=
  ∃ r ∈ opcodeTable, r.mnemonic = i.mnemonic ∧ encodeWord i &&& r.mask = r.bits

theorem cls : Statement (.cls) :=
  ⟨⟨"CLS", 0x00E0, 0xFFFF⟩, by decide, rfl, by decide⟩

theorem ret : Statement (.ret) :=
  ⟨⟨"RET", 0x00EE, 0xFFFF⟩, by decide, rfl, by decide⟩

theorem jmp (nnn : Addr) : Statement (.jmp nnn) :=
  ⟨⟨"JMP", 0x1000, 0xF000⟩, by decide, rfl, by
    rw [mask_op, encodeWord, fieldOp_encNNN]; decide⟩

theorem call (nnn : Addr) : Statement (.call nnn) :=
  ⟨⟨"CALL", 0x2000, 0xF000⟩, by decide, rfl, by
    rw [mask_op, encodeWord, fieldOp_encNNN]; decide⟩

theorem se (x : Reg) (nn : Byte) : Statement (.se x nn) :=
  ⟨⟨"SE", 0x3000, 0xF000⟩, by decide, rfl, by
    rw [mask_op, encodeWord, fieldOp_encXNN]; decide⟩

theorem sne (x : Reg) (nn : Byte) : Statement (.sne x nn) :=
  ⟨⟨"SNE", 0x4000, 0xF000⟩, by decide, rfl, by
    rw [mask_op, encodeWord, fieldOp_encXNN]; decide⟩

theorem seReg (x y : Reg) : Statement (.seReg x y) :=
  ⟨⟨"SE_reg", 0x5000, 0xF00F⟩, by decide, rfl, by
    rw [mask_op_n, encodeWord, fieldOp_encXYN, fieldN_encXYN]; decide⟩

theorem ldImm (x : Reg) (nn : Byte) : Statement (.ldImm x nn) :=
  ⟨⟨"LD_imm", 0x6000, 0xF000⟩, by decide, rfl, by
    rw [mask_op, encodeWord, fieldOp_encXNN]; decide⟩

theorem addImm (x : Reg) (nn : Byte) : Statement (.addImm x nn) :=
  ⟨⟨"ADD_imm", 0x7000, 0xF000⟩, by decide, rfl, by
    rw [mask_op, encodeWord, fieldOp_encXNN]; decide⟩

theorem mov (x y : Reg) : Statement (.mov x y) :=
  ⟨⟨"MOV", 0x8000, 0xF00F⟩, by decide, rfl, by
    rw [mask_op_n, encodeWord, fieldOp_encXYN, fieldN_encXYN]; decide⟩

theorem orReg (x y : Reg) : Statement (.orReg x y) :=
  ⟨⟨"OR", 0x8001, 0xF00F⟩, by decide, rfl, by
    rw [mask_op_n, encodeWord, fieldOp_encXYN, fieldN_encXYN]; decide⟩

theorem andReg (x y : Reg) : Statement (.andReg x y) :=
  ⟨⟨"AND", 0x8002, 0xF00F⟩, by decide, rfl, by
    rw [mask_op_n, encodeWord, fieldOp_encXYN, fieldN_encXYN]; decide⟩

theorem xorReg (x y : Reg) : Statement (.xorReg x y) :=
  ⟨⟨"XOR", 0x8003, 0xF00F⟩, by decide, rfl, by
    rw [mask_op_n, encodeWord, fieldOp_encXYN, fieldN_encXYN]; decide⟩

theorem addReg (x y : Reg) : Statement (.addReg x y) :=
  ⟨⟨"ADD_reg", 0x8004, 0xF00F⟩, by decide, rfl, by
    rw [mask_op_n, encodeWord, fieldOp_encXYN, fieldN_encXYN]; decide⟩

theorem sub (x y : Reg) : Statement (.sub x y) :=
  ⟨⟨"SUB", 0x8005, 0xF00F⟩, by decide, rfl, by
    rw [mask_op_n, encodeWord, fieldOp_encXYN, fieldN_encXYN]; decide⟩

theorem shr (x y : Reg) : Statement (.shr x y) :=
  ⟨⟨"SHR", 0x8006, 0xF00F⟩, by decide, rfl, by
    rw [mask_op_n, encodeWord, fieldOp_encXYN, fieldN_encXYN]; decide⟩

theorem subn (x y : Reg) : Statement (.subn x y) :=
  ⟨⟨"SUBN", 0x8007, 0xF00F⟩, by decide, rfl, by
    rw [mask_op_n, encodeWord, fieldOp_encXYN, fieldN_encXYN]; decide⟩

theorem shl (x y : Reg) : Statement (.shl x y) :=
  ⟨⟨"SHL", 0x800E, 0xF00F⟩, by decide, rfl, by
    rw [mask_op_n, encodeWord, fieldOp_encXYN, fieldN_encXYN]; decide⟩

theorem sneReg (x y : Reg) : Statement (.sneReg x y) :=
  ⟨⟨"SNE_reg", 0x9000, 0xF00F⟩, by decide, rfl, by
    rw [mask_op_n, encodeWord, fieldOp_encXYN, fieldN_encXYN]; decide⟩

theorem ldI (nnn : Addr) : Statement (.ldI nnn) :=
  ⟨⟨"LD_I", 0xA000, 0xF000⟩, by decide, rfl, by
    rw [mask_op, encodeWord, fieldOp_encNNN]; decide⟩

theorem jmpV0 (nnn : Addr) : Statement (.jmpV0 nnn) :=
  ⟨⟨"JMP+V0", 0xB000, 0xF000⟩, by decide, rfl, by
    rw [mask_op, encodeWord, fieldOp_encNNN]; decide⟩

theorem rnd (x : Reg) (nn : Byte) : Statement (.rnd x nn) :=
  ⟨⟨"RND", 0xC000, 0xF000⟩, by decide, rfl, by
    rw [mask_op, encodeWord, fieldOp_encXNN]; decide⟩

theorem draw (x y : Reg) (n : Nibble) : Statement (.draw x y n) :=
  ⟨⟨"DRAW", 0xD000, 0xF000⟩, by decide, rfl, by
    rw [mask_op, encodeWord, fieldOp_encXYN]; decide⟩

theorem skp (x : Reg) : Statement (.skp x) :=
  ⟨⟨"SKP", 0xE09E, 0xF0FF⟩, by decide, rfl, by
    rw [mask_op_nn, encodeWord, fieldOp_encXNN, fieldNN_encXNN]; decide⟩

theorem sknp (x : Reg) : Statement (.sknp x) :=
  ⟨⟨"SKNP", 0xE0A1, 0xF0FF⟩, by decide, rfl, by
    rw [mask_op_nn, encodeWord, fieldOp_encXNN, fieldNN_encXNN]; decide⟩

theorem ldVxDt (x : Reg) : Statement (.ldVxDt x) :=
  ⟨⟨"LD_Vx_DT", 0xF007, 0xF0FF⟩, by decide, rfl, by
    rw [mask_op_nn, encodeWord, fieldOp_encXNN, fieldNN_encXNN]; decide⟩

theorem ldVxK (x : Reg) : Statement (.ldVxK x) :=
  ⟨⟨"LD_Vx_K", 0xF00A, 0xF0FF⟩, by decide, rfl, by
    rw [mask_op_nn, encodeWord, fieldOp_encXNN, fieldNN_encXNN]; decide⟩

theorem ldDtVx (x : Reg) : Statement (.ldDtVx x) :=
  ⟨⟨"LD_DT_Vx", 0xF015, 0xF0FF⟩, by decide, rfl, by
    rw [mask_op_nn, encodeWord, fieldOp_encXNN, fieldNN_encXNN]; decide⟩

theorem ldStVx (x : Reg) : Statement (.ldStVx x) :=
  ⟨⟨"LD_ST_Vx", 0xF018, 0xF0FF⟩, by decide, rfl, by
    rw [mask_op_nn, encodeWord, fieldOp_encXNN, fieldNN_encXNN]; decide⟩

theorem addIVx (x : Reg) : Statement (.addIVx x) :=
  ⟨⟨"ADD_I_Vx", 0xF01E, 0xF0FF⟩, by decide, rfl, by
    rw [mask_op_nn, encodeWord, fieldOp_encXNN, fieldNN_encXNN]; decide⟩

theorem ldIF (x : Reg) : Statement (.ldIF x) :=
  ⟨⟨"LD_I_F", 0xF029, 0xF0FF⟩, by decide, rfl, by
    rw [mask_op_nn, encodeWord, fieldOp_encXNN, fieldNN_encXNN]; decide⟩

theorem bcd (x : Reg) : Statement (.bcd x) :=
  ⟨⟨"BCD", 0xF033, 0xF0FF⟩, by decide, rfl, by
    rw [mask_op_nn, encodeWord, fieldOp_encXNN, fieldNN_encXNN]; decide⟩

theorem stor (x : Reg) : Statement (.stor x) :=
  ⟨⟨"STOR", 0xF055, 0xF0FF⟩, by decide, rfl, by
    rw [mask_op_nn, encodeWord, fieldOp_encXNN, fieldNN_encXNN]; decide⟩

theorem read (x : Reg) : Statement (.read x) :=
  ⟨⟨"READ", 0xF065, 0xF0FF⟩, by decide, rfl, by
    rw [mask_op_nn, encodeWord, fieldOp_encXNN, fieldNN_encXNN]; decide⟩

end Sys2Proof.Laws.FixedBits
end

