-- ==== Sys2Proof/Tests/Slice0.lean ====
section
/-! SUPPORT. Tests of the model: the checks of WellFormed, the decoder on words written from the patterns of R94, one or two single steps per instruction with results from spec/95_test_vectors.md (the vector's number stands in each docstring), and a concrete witness for the hypotheses of every obligation that has some. -/

namespace Sys2Proof.Tests

open Sys2Proof Sys2Proof.Machine

/-! ### WellFormed: an ill-formed term for each check -/

theorem test_wf_reg_16_refused : regOk 16 = false ∧ regOk 15 = true := by decide

theorem test_wf_nibble_16_refused : nibbleOk 16 = false ∧ nibbleOk 15 = true := by decide

theorem test_wf_byte_256_refused : byteOk 256 = false ∧ byteOk 255 = true := by decide

theorem test_wf_addr_4096_refused : addrOk 4096 = false ∧ addrOk 4095 = true := by decide

theorem test_wf_params_stack_15_refused : Params.wellFormed { defaultParams with stackDepth := 15 } = false := by decide

theorem test_wf_params_stack_25_refused : Params.wellFormed { defaultParams with stackDepth := 25 } = false := by decide

theorem test_wf_params_width_7_refused : Params.wellFormed { defaultParams with dispW := 7 } = false := by decide

theorem test_wf_params_height_14_refused : Params.wellFormed { defaultParams with dispH := 14 } = false := by decide

theorem test_wf_params_glyphs_outside_refused : Params.wellFormed { defaultParams with glyphBase := 0xFB1 } = false := by
  decide

theorem test_wf_params_short_rom_refused : Params.wellFormed { defaultParams with glyphRom := [0xF0] } = false := by decide

theorem test_wf_params_default : defaultParams.wellFormed = true := by decide

/-! ### Decoding: words written out from the patterns of R94 -/

/-- Every row of the table is alone: no two rows match one word (R94). -/
theorem test_rows_disjoint :
    opcodeTable.Pairwise fun a b => a.bits &&& b.mask ≠ b.bits ∨ b.bits &&& a.mask ≠ a.bits := by decide

theorem test_decode_flow :
    decodeWord 0x00EE = .ok .ret ∧ decodeWord 0x1ABC = .ok (.jmp 0xABC) ∧ decodeWord 0x2300 = .ok (.call 0x300) ∧
    decodeWord 0x332A = .ok (.se 3 0x2A) ∧ decodeWord 0x432A = .ok (.sne 3 0x2A) ∧
    decodeWord 0x5120 = .ok (.seReg 1 2) ∧ decodeWord 0x9120 = .ok (.sneReg 1 2) ∧
    decodeWord 0xBFFF = .ok (.jmpV0 0xFFF) := by decide

theorem test_decode_alu :
    decodeWord 0x6A3C = .ok (.ldImm 10 0x3C) ∧ decodeWord 0x7105 = .ok (.addImm 1 0x05) ∧
    decodeWord 0x8120 = .ok (.mov 1 2) ∧ decodeWord 0x8121 = .ok (.orReg 1 2) ∧ decodeWord 0x8122 = .ok (.andReg 1 2) ∧
    decodeWord 0x8123 = .ok (.xorReg 1 2) ∧ decodeWord 0x8124 = .ok (.addReg 1 2) ∧ decodeWord 0x8125 = .ok (.sub 1 2) ∧
    decodeWord 0x8AB6 = .ok (.shr 10 11) ∧ decodeWord 0x8127 = .ok (.subn 1 2) ∧ decodeWord 0x812E = .ok (.shl 1 2) ∧
    decodeWord 0xC10F = .ok (.rnd 1 0x0F) := by decide

theorem test_decode_memory_display :
    decodeWord 0xA2F0 = .ok (.ldI 0x2F0) ∧ decodeWord 0xF11E = .ok (.addIVx 1) ∧ decodeWord 0xF129 = .ok (.ldIF 1) ∧
    decodeWord 0xF333 = .ok (.bcd 3) ∧ decodeWord 0xF255 = .ok (.stor 2) ∧ decodeWord 0xF265 = .ok (.read 2) ∧
    decodeWord 0x00E0 = .ok .cls ∧ decodeWord 0xD4A7 = .ok (.draw 4 10 7) := by decide

theorem test_decode_timers_keys :
    decodeWord 0xE09E = .ok (.skp 0) ∧ decodeWord 0xE0A1 = .ok (.sknp 0) ∧ decodeWord 0xF307 = .ok (.ldVxDt 3) ∧
    decodeWord 0xF20A = .ok (.ldVxK 2) ∧ decodeWord 0xF315 = .ok (.ldDtVx 3) ∧ decodeWord 0xF318 = .ok (.ldStVx 3) := by
  decide

/-- X1 to X7. -/
theorem test_decode_illegal :
    decodeWord 0x0000 = .error .family0 ∧ decodeWord 0x01E0 = .error .family0 ∧ decodeWord 0x5121 = .error .family5 ∧
    decodeWord 0x812F = .error .family8 ∧ decodeWord 0x9121 = .error .family9 ∧ decodeWord 0xE1A0 = .error .familyE ∧
    decodeWord 0xF175 = .error .familyF := by decide

/-- The bytes of 0xD4A7 in Memory's order (section 2.6 of the vectors), and an instruction cut short. -/
theorem test_decode_bytes :
    decode [0xD4, 0xA7, 0x55] = .ok (.draw 4 10 7, [0x55]) ∧ decode [0xD4] = .error .tooShort ∧
    encode (.draw 4 10 7) = [0xD4, 0xA7] ∧ decodeTableWord 16 0x8AB6 = some (.shr 10 11) := by decide

/-! ### One step each

`at0200 w s` is the machine about to run the word `w` at 0x200 with the strobe down and an empty poll; `ran` asks a question of
the state a step leaves. -/

/-- The reset machine with some registers and `I` set. -/
def regs (i : Addr) (l : List (Nat × Byte)) : State :=
  { State.reset with i := i, v := l.foldl (fun v p => v.setIfInBounds p.1 p.2) State.reset.v }

/-- The machine about to run the word `w`, at 0x200 if it is stopped and at its `PC` if it runs. -/
def at0200 (w : Nat) (s : State) : State := s.withFetchWord 16 w

/-- The same with what the strobe and the poll of the cycle answer. -/
def atWith (w : Nat) (due : Bool) (p : Poll) (s : State) : State :=
  let t := s.withFetchWord 16 w
  { t with env := { t.env with timerDue := ⟨[due], 0⟩, poll := ⟨[p], 0⟩ } }

/-- The answer is a next state of which `f` holds. -/
def ran (r : Result) (f : State → Bool) : Bool :=
  match r with
  | .next t => f t
  | .fault _ => false
  | .refused _ => false

/-- G12: every cell unlit, one `present`. -/
theorem test_cls : ran (step (at0200 0x00E0 { State.reset with fb := Grid.xorCell State.reset.fb 3 5 true }))
    (fun t => !t.fb.any (fun row => row.any id) && t.env.presented.length == 2 && t.pc == 0x202) = true := by decide

/-- A1: the popped entry stays. -/
theorem test_ret : ran (step (at0200 0x00EE { State.reset with sp := 1, stack := 0x206 :: List.replicate 15 0 }))
    (fun t => t.sp == 0 && t.pc == 0x206 && t.stack.head? == some 0x206) = true := by decide

/-- A2: `StackUnderflow`, code 3. -/
theorem test_ret_underflow : ran (step (at0200 0x00EE State.reset))
    (fun t => causeCode t.cause == 3 && t.rs == .stopped && t.stopReason == .fault && t.sp == 0 && t.pc == 0x202 &&
      t.ir == 0x00EE && t.iaddr == 0x200) = true := by decide

/-- A3. -/
theorem test_jmp : ran (step (at0200 0x1ABC State.reset)) (fun t => t.pc == 0xABC) = true := by decide

/-- A7: a call at 0xFFE pushes 0x1000 into the last entry. -/
theorem test_call : ran (step (at0200 0x2300 { State.reset with rs := .running, pc := 0xFFE, sp := 15 }))
    (fun t => t.stack.getLast? == some 0x1000 && t.sp == 16 && t.pc == 0x300) = true := by decide

/-- A6: `StackOverflow`, code 2. -/
theorem test_call_overflow : ran (step (at0200 0x2300 { State.reset with sp := 16 }))
    (fun t => causeCode t.cause == 2 && t.sp == 16 && t.pc == 0x202 && t.rs == .stopped) = true := by decide

/-- A10, A11. -/
theorem test_se : ran (step (at0200 0x332A (regs 0 [(3, 0x2A)]))) (fun t => t.pc == 0x204) = true ∧
    ran (step (at0200 0x3300 (regs 0 [(3, 0x2A)]))) (fun t => t.pc == 0x202) = true := by decide

/-- A12, A13. -/
theorem test_sne : ran (step (at0200 0x432A (regs 0 [(3, 0x2A)]))) (fun t => t.pc == 0x202) = true ∧
    ran (step (at0200 0x4300 (regs 0 [(3, 0x2A)]))) (fun t => t.pc == 0x204) = true := by decide

/-- A14, A15. -/
theorem test_seReg : ran (step (at0200 0x5120 (regs 0 [(1, 7), (2, 7)]))) (fun t => t.pc == 0x204) = true ∧
    ran (step (at0200 0x5120 (regs 0 [(1, 7), (2, 8)]))) (fun t => t.pc == 0x202) = true := by decide

/-- A17, A19. -/
theorem test_sneReg : ran (step (at0200 0x9120 (regs 0 [(1, 7), (2, 8)]))) (fun t => t.pc == 0x204) = true ∧
    ran (step (at0200 0x9440 State.reset)) (fun t => t.pc == 0x202) = true := by decide

/-- A9: the sum is not wrapped and no register changes. -/
theorem test_jmpV0 : ran (step (at0200 0xBFFF (regs 0 [(0, 0xFF), (15, 0x77)])))
    (fun t => t.pc == 0x10FE && readV t 15 == 0x77) = true := by decide

/-- B1. -/
theorem test_ldImm : ran (step (at0200 0x6A3C State.reset)) (fun t => readV t 10 == 0x3C) = true := by decide

/-- B3, B5. -/
theorem test_addImm : ran (step (at0200 0x7105 (regs 0 [(1, 0xFE)]))) (fun t => readV t 1 == 3 && readV t 15 == 0) = true ∧
    ran (step (at0200 0x7F02 (regs 0 [(15, 0xFF)]))) (fun t => readV t 15 == 1) = true := by decide

/-- B6. -/
theorem test_mov : ran (step (at0200 0x8120 (regs 0 [(2, 0x77)]))) (fun t => readV t 1 == 0x77) = true := by decide

/-- B7. -/
theorem test_orReg : ran (step (at0200 0x8121 (regs 0 [(1, 0xF0), (2, 0x0F), (15, 1)])))
    (fun t => readV t 1 == 0xFF && readV t 15 == 1) = true := by decide

/-- B8. -/
theorem test_andReg : ran (step (at0200 0x8122 (regs 0 [(1, 0xF3), (2, 0x3F), (15, 1)])))
    (fun t => readV t 1 == 0x33 && readV t 15 == 1) = true := by decide

/-- B9. -/
theorem test_xorReg : ran (step (at0200 0x8123 (regs 0 [(1, 0xFF), (2, 0x0F), (15, 1)])))
    (fun t => readV t 1 == 0xF0 && readV t 15 == 1) = true := by decide

/-- S1, B13. -/
theorem test_addReg : ran (step (at0200 0x8124 (regs 0 [(1, 0xFF), (2, 1)]))) (fun t => readV t 1 == 0 && readV t 15 == 1) = true ∧
    ran (step (at0200 0x8124 (regs 0 [(1, 0xFF), (15, 1)]))) (fun t => readV t 1 == 0xFF && readV t 15 == 0) = true := by decide

/-- B15, B17, B18: the flag register as destination and as source. -/
theorem test_addReg_vf : ran (step (at0200 0x8F14 (regs 0 [(15, 0xFF), (1, 1)]))) (fun t => readV t 15 == 1) = true ∧
    ran (step (at0200 0x81F4 (regs 0 [(1, 5), (15, 1)]))) (fun t => readV t 1 == 6 && readV t 15 == 0) = true ∧
    ran (step (at0200 0x8FF4 (regs 0 [(15, 0x90)]))) (fun t => readV t 15 == 1) = true := by decide

/-- S4, B20, B24. -/
theorem test_sub : ran (step (at0200 0x8125 (regs 0 [(1, 3), (2, 5)]))) (fun t => readV t 1 == 0xFE && readV t 15 == 0) = true ∧
    ran (step (at0200 0x8125 State.reset)) (fun t => readV t 1 == 0 && readV t 15 == 1) = true ∧
    ran (step (at0200 0x8F15 (regs 0 [(15, 9), (1, 10)]))) (fun t => readV t 15 == 0) = true := by decide

/-- B27, B30. -/
theorem test_shr : ran (step (at0200 0x8126 (regs 0 [(1, 5), (2, 0xF0)])))
      (fun t => readV t 1 == 2 && readV t 2 == 0xF0 && readV t 15 == 1) = true ∧
    ran (step (at0200 0x8F06 (regs 0 [(15, 2)]))) (fun t => readV t 15 == 0) = true := by decide

/-- B31, B32. -/
theorem test_subn : ran (step (at0200 0x8127 (regs 0 [(1, 3), (2, 5)]))) (fun t => readV t 1 == 2 && readV t 15 == 1) = true ∧
    ran (step (at0200 0x8127 (regs 0 [(1, 5), (2, 3)]))) (fun t => readV t 1 == 0xFE && readV t 15 == 0) = true := by decide

/-- B34, B38. -/
theorem test_shl : ran (step (at0200 0x810E (regs 0 [(1, 0x81)]))) (fun t => readV t 1 == 2 && readV t 15 == 1) = true ∧
    ran (step (at0200 0x8FFE (regs 0 [(15, 0x7F)]))) (fun t => readV t 15 == 0) = true := by decide

/-- B39: the pending byte is used up. -/
theorem test_rnd : ran (step (at0200 0xC10F { State.reset with env := { State.reset.env with rand := ⟨[0xA7, 0x11], 0⟩ } }))
    (fun t => readV t 1 == 7 && t.env.rand == ⟨[0x11], 1⟩) = true := by decide

/-- M2. -/
theorem test_ldI : ran (step (at0200 0xAFFF State.reset)) (fun t => t.i == 0xFFF) = true := by decide

/-- M5, M6. -/
theorem test_addIVx : ran (step (at0200 0xF11E (regs 0xF00 [(1, 0xFF), (15, 1)]))) (fun t => t.i == 0xFFF && readV t 15 == 0) = true ∧
    ran (step (at0200 0xF11E (regs 0xFFE [(1, 0xFF)]))) (fun t => t.i == 0x0FD && readV t 15 == 1) = true := by decide

/-- M11, M14. -/
theorem test_ldIF : ran (step (at0200 0xF129 (regs 0 [(1, 15)]))) (fun t => t.i == 0xFFB) = true ∧
    ran (step (at0200 0xF129 (regs 0 [(1, 0xFF)]))) (fun t => t.i == 0x4AB) = true := by decide

/-- S5: a byte equal to the reset byte is not listed, the canonical form is kept. -/
theorem test_bcd : ran (step (at0200 0xF333 (regs 0x300 [(3, 156)])))
    (fun t => t.byte 0x300 == 1 && t.byte 0x301 == 5 && t.byte 0x302 == 6 && t.i == 0x300 && decide (Memory.wf t.params t.mem)) =
      true := by decide

/-- M20: nothing is written when the last digit lies outside Memory. -/
theorem test_bcd_range : ran (step (at0200 0xF333 (regs 0xFFE [(3, 99)])))
    (fun t => causeCode t.cause == 4 && t.byte 0xFFE == 0x80 && t.byte 0xFFF == 0x80 && t.pc == 0x202) = true := by decide

/-- M25: the last bytes of Memory. -/
theorem test_stor : ran (step (at0200 0xF255 (regs 0xFFD [(0, 1), (1, 2), (2, 3)])))
    (fun t => t.byte 0xFFD == 1 && t.byte 0xFFE == 2 && t.byte 0xFFF == 3 && t.byte 0xFFC == 0x80) = true := by decide

/-- M26. -/
theorem test_stor_range : ran (step (at0200 0xF255 (regs 0xFFE [(0, 1)])))
    (fun t => causeCode t.cause == 4 && t.byte 0xFFE == 0x80) = true := by decide

/-- M30 (the bytes are `GLYPH_ROM`, general knowledge): glyph "0" loaded from Memory after reset. -/
theorem test_read : ran (step (at0200 0xF465 (regs 0xFB0 [(5, 0x77)])))
    (fun t => t.v.toList.take 6 == [0xF0, 0x90, 0x90, 0x90, 0xF0, 0x77] && t.i == 0xFB0) = true := by decide

/-- M29. -/
theorem test_read_range : ran (step (at0200 0xF265 (regs 0xFFE [(0, 7), (1, 8), (2, 9)])))
    (fun t => causeCode t.cause == 4 && t.v.toList.take 3 == [7, 8, 9]) = true := by decide

/-- The lit cells of a display, row by row. -/
def lit (g : Grid) : List (Nat × Nat) :=
  (g.zipIdx.map fun r => (r.1.zipIdx.filter fun c => c.1).map fun c => (r.2, c.2)).flatten

/-- G3: both axes wrap. -/
theorem test_draw_wraps :
    ran (step (at0200 0xD012 { regs 0x300 [(0, 62), (1, 31), (15, 9)] with mem := [(0x300, 0xC3), (0x301, 0x81)] }))
    (fun t => lit t.fb == [(0, 5), (0, 62), (31, 4), (31, 5), (31, 62), (31, 63)] && readV t 15 == 0 &&
      t.env.presented.length == 2) = true := by decide

/-- G5, G6: a sprite bit of 1 on a lit cell collides, a sprite bit of 0 does not. -/
theorem test_draw_collides :
    ran (step (at0200 0xD121 { regs 0x300 [] with mem := [(0x300, 0xF0)], fb := Grid.xorCell State.reset.fb 0 3 true }))
      (fun t => lit t.fb == [(0, 0), (0, 1), (0, 2)] && readV t 15 == 1) = true ∧
    ran (step (at0200 0xD121 { regs 0x300 [] with mem := [(0x300, 0xF0)], fb := Grid.xorCell State.reset.fb 0 4 true }))
      (fun t => lit t.fb == [(0, 0), (0, 1), (0, 2), (0, 3), (0, 4)] && readV t 15 == 0) = true := by decide

/-- T2: LD Vx,DT reads the timer after the tick of the same cycle. -/
theorem test_ldVxDt : ran (step (atWith 0xF307 true (.events []) { State.reset with dt := 0x10, st := 0 }))
    (fun t => t.dt == 0x0F && t.st == 0 && readV t 3 == 0x0F) = true := by decide

/-- T4: LD DT,Vx writes after the tick. -/
theorem test_ldDtVx : ran (step (atWith 0xF315 true (.events []) { regs 0 [(3, 0x3C)] with dt := 5 }))
    (fun t => t.dt == 0x3C) = true := by decide

/-- T5. -/
theorem test_ldStVx : ran (step (at0200 0xF318 (regs 0 [(3, 5)]))) (fun t => t.st == 5 && t.dt == 0) = true := by decide

/-- K1, K6: the latch of this cycle's poll is visible, and a hit consumes all of it. -/
theorem test_skp : ran (step (at0200 0xE09E { regs 0 [(0, 3)] with keys := 0x28 })) (fun t => t.keys == 0 && t.pc == 0x204) = true ∧
    ran (step (atWith 0xE09E false (.events [⟨9, true⟩]) (regs 0 [(0, 9)]))) (fun t => t.keys == 0 && t.pc == 0x204) = true := by
  decide

/-- K2, K5. -/
theorem test_skp_miss : ran (step (at0200 0xE09E { regs 0 [(0, 4)] with keys := 0x28 }))
      (fun t => t.keys == 0x28 && t.pc == 0x202) = true ∧
    ran (step (at0200 0xE09E { regs 0 [(0, 0x13)] with keys := 0x28 })) (fun t => t.keys == 0 && t.pc == 0x204) = true := by decide

/-- K3, K4. -/
theorem test_sknp : ran (step (at0200 0xE0A1 { regs 0 [(0, 3)] with keys := 0x28 })) (fun t => t.keys == 0 && t.pc == 0x202) = true ∧
    ran (step (at0200 0xE0A1 { regs 0 [(0, 4)] with keys := 0x28 })) (fun t => t.keys == 0x28 && t.pc == 0x204) = true := by decide

/-- W1, the cycle: the machine waits with `PC` past the instruction. -/
theorem test_ldVxK : ran (step (at0200 0xF20A { regs 0 [(2, 0x55)] with dt := 9, keys := 1 }))
    (fun t => t.rs == .waitk && t.pc == 0x202 && readV t 2 == 0x55 && t.dt == 9 && t.keys == 1) = true := by decide

/-- The machine waiting for a key for `V[2]`, with the answers the input source will give. -/
def waiting (l : List WaitEvent) : State :=
  { regs 0 [(2, 0x55)] with
    rs := .waitk, pc := 0x202, ir := 0xF20A, iaddr := 0x200, dt := 9, keys := 1
    env := { State.reset.env with waitEvent := ⟨l, 0⟩ } }

/-- W1 and W2, the key-wait steps. -/
theorem test_wait_steps :
    ran (step (waiting [.nothing])) (fun t => t.rs == .waitk && readV t 2 == 0x55) = true ∧
    ran (step (waiting [.keyup 7]))
      (fun t => t.rs == .running && readV t 2 == 7 && t.pc == 0x202 && t.dt == 9 && t.keys == 1) = true ∧
    ran (step (waiting [.quit]))
      (fun t => t.rs == .stopped && t.stopReason == .quit && readV t 2 == 0x55 && t.pc == 0x202) = true := by decide

/-! ### The cycle and the host -/

/-- K8: every press of a poll is latched; K7: a release clears nothing. -/
theorem test_latch :
    ran (step (atWith 0x6000 false (.events [⟨4, true⟩, ⟨15, true⟩, ⟨0, false⟩]) { State.reset with keys := 1 }))
      (fun t => t.keys == 0x8011) = true := by decide

/-- Q1: the tick of the cycle stays, nothing is fetched. -/
theorem test_quit : ran (step (atWith 0x1200 true .quit { State.reset with dt := 3, ir := 0x6001 }))
    (fun t => t.dt == 2 && t.rs == .stopped && t.stopReason == .quit && t.pc == 0x200 && t.ir == 0x6001) = true := by decide

/-- X1 by a step: zeroed memory is an illegal word. -/
theorem test_illegal : ran (step (at0200 0x0000 State.reset))
    (fun t => causeCode t.cause == 1 && t.rs == .stopped && t.ir == 0 && t.iaddr == 0x200 && t.pc == 0x202) = true := by decide

/-- H5: a run that starts at 0xFFF is a natural halt, without a tick. -/
theorem test_halt : ran (step { State.reset with rs := .running, pc := 0xFFF, dt := 5 })
    (fun t => t.rs == .stopped && t.stopReason == .halt && t.cause == none && t.pc == 0xFFF && t.dt == 5) = true := by decide

/-- The reset machine with one command of the host waiting. -/
def asked (c : HostCmd) (s : State) : State := { s with env := { s.env with host := [c] } }

/-- H4: `run` clears the stop record and keeps the rest. -/
theorem test_run : ran (step (asked (.run 0x200)
      { regs 0 [(1, 9)] with stopReason := .fault, cause := some .stackUnderflow, sp := 2 }))
    (fun t => t.pc == 0x200 && t.rs == .running && t.stopReason == .none && t.cause == none && readV t 1 == 9 && t.sp == 2) =
      true := by decide

/-- S10: a load that does not fit writes nothing, one that just fits may cover the glyph table. -/
theorem test_load : ran (step (asked (.load 0xFFE [0xAA, 0xBB, 0xCC]) State.reset))
      (fun t => t.mem == [] && t.env.replies == [.outOfRange]) = true ∧
    ran (step (asked (.load 0xFFE [0xAA, 0xBB]) State.reset))
      (fun t => t.byte 0xFFE == 0xAA && t.byte 0xFFF == 0xBB && t.env.replies == [.ok]) = true := by decide

/-- H1: `reset` puts everything back. -/
theorem test_reset : ran (step (asked .reset
      { regs 0x300 [(1, 9)] with mem := [(0x200, 0x12)], sp := 2, stopReason := .fault, cause := some .outOfRange }))
    (fun t => decide (t = present State.reset)) = true := by decide

/-! ### Witnesses: for every obligation with hypotheses, states and operands that meet them, clause by clause, at the edges -/

theorem witness_EncodeOfDecode : decodeWord 0x812E = .ok (.shl 1 2) ∧ decodeWord 0xFF65 = .ok (.read 15) := by decide

theorem witness_WordIsItsRow :
    (⟨"SKP", 0xE09E, 0xF0FF⟩ : OpRow) ∈ opcodeTable ∧ (0xEF9E : Word16) &&& 0xF0FF = 0xE09E ∧
    (0xEF9F : Word16) &&& 0xF0FF ≠ 0xE09E ∧ decodeWord 0xEF9F = .error .familyE := by decide

/-- Each disjunct at its first and last word. -/
theorem witness_IllegalWords :
    decodeWord 0x00E1 = .error .family0 ∧ decodeWord 0x0FFF = .error .family0 ∧ decodeWord 0x5001 = .error .family5 ∧
    decodeWord 0x8008 = .error .family8 ∧ decodeWord 0x8FFF = .error .family8 ∧ decodeWord 0x9FFF = .error .family9 ∧
    decodeWord 0xE000 = .error .familyE ∧ decodeWord 0xF000 = .error .familyF ∧ decodeWord 0xFFFF = .error .familyF := by decide

/-- A running machine at the last address that can be fetched from, whose word there is `hi lo`, with an empty poll. -/
def atTop (hi lo : Byte) : State :=
  { State.reset with
    rs := .running, pc := 0xFFE, mem := [(0xFFE, hi), (0xFFF, lo)]
    env := { State.reset.env with poll := ⟨[.events []], 0⟩ } }

theorem witness_StepRuns :
    (atTop 0x12 0x00).rs = .running ∧ (atTop 0x12 0x00).pc.toNat ≤ 0xFFE ∧
    ((atTop 0x12 0x00).env.poll.draw Config.poll).1 = .events [] ∧
    decodeWord (wordOfBytes ((atTop 0x12 0x00).byte 0xFFE) ((atTop 0x12 0x00).byte 0xFFF)) = .ok (.jmp 0x200) := by decide

theorem witness_IllegalWordStops :
    (atTop 0x01 0xE0).rs = .running ∧ (atTop 0x01 0xE0).pc.toNat ≤ 0xFFE ∧
    ((atTop 0x01 0xE0).env.poll.draw Config.poll).1 = .events [] ∧
    decodeWord (wordOfBytes ((atTop 0x01 0xE0).byte 0xFFE) ((atTop 0x01 0xE0).byte 0xFFF)) = .error .family0 := by decide

theorem witness_NaturalHalt :
    ({ State.reset with rs := .running, pc := 0xFFF } : State).rs = .running ∧
    0xFFE < ({ State.reset with rs := .running, pc := 0xFFF } : State).pc.toNat := by decide

theorem witness_Quit :
    ({ atTop 0 0 with env := { State.reset.env with poll := ⟨[.quit], 0⟩ } } : State).rs = .running ∧
    (({ atTop 0 0 with env := { State.reset.env with poll := ⟨[.quit], 0⟩ } } : State).env.poll.draw Config.poll).1 = .quit := by
  decide

/-- The three clauses, the key at its largest. -/
theorem witness_KeyWaitStep :
    (waiting [.nothing]).rs = .waitk ∧ ((waiting [.nothing]).env.waitEvent.draw Config.waitEvent).1 = .nothing ∧
    ((waiting [.keyup 15]).env.waitEvent.draw Config.waitEvent).1 = .keyup 15 ∧
    ((waiting [.quit]).env.waitEvent.draw Config.waitEvent).1 = .quit := by decide

theorem witness_KeyWaitDelivers :
    (atTop 0xF2 0x0A).rs = .running ∧ ((atTop 0xF2 0x0A).env.poll.draw Config.poll).1 = .events [] ∧
    decodeWord (wordOfBytes ((atTop 0xF2 0x0A).byte 0xFFE) ((atTop 0xF2 0x0A).byte 0xFFF)) = .ok (.ldVxK 2) ∧
    ran (step { atTop 0xF2 0x0A with env := { (atTop 0xF2 0x0A).env with waitEvent := ⟨[.keyup 15], 0⟩, timerDue := ⟨[true], 0⟩ } })
      (fun t => decide ((t.env.waitEvent.draw Config.waitEvent).1 = .keyup 15)) = true := by decide

theorem witness_Stopped : State.reset.rs = .stopped ∧ State.reset.env.host = [] := by decide

theorem witness_Run : (asked (.run 0xFFF) State.reset).rs = .stopped ∧
    (asked (.run 0xFFF) State.reset).env.host = .run 0xFFF :: [] := by decide

/-- Both clauses at the edge (H3): nothing at 0x1000 fits, nothing at 0x1001 does not. -/
theorem witness_Load :
    (asked (.load 0x1000 []) State.reset).env.host = .load 0x1000 [] :: [] ∧ 0x1000 + ([] : List Byte).length ≤ 4096 ∧
    (asked (.load 0x1001 []) State.reset).env.host = .load 0x1001 [] :: [] ∧ 4096 < 0x1001 + ([] : List Byte).length := by decide

theorem witness_Reset : (asked .reset State.reset).rs = .stopped ∧ (asked .reset State.reset).env.host = .reset :: [] ∧
    (asked .reset State.reset).params.wellFormed = true := by decide

theorem witness_Boot :
    ({ State.reset with env := { State.reset.env with host := [.reset, .load 0xFFE [0x12, 0x00], .run 0xFFE] } } : State).rs =
      .stopped ∧ 0xFFE + ([0x12, 0x00] : List Byte).length ≤ 4096 := by decide

/-- The stack with one place left, with none left, and with one entry. -/
theorem witness_Stack :
    ({ State.reset with sp := 15 } : State).stack.length = ({ State.reset with sp := 15 } : State).params.stackDepth ∧
    ({ State.reset with sp := 15 } : State).sp < ({ State.reset with sp := 15 } : State).params.stackDepth ∧
    ({ State.reset with sp := 16 } : State).sp = ({ State.reset with sp := 16 } : State).params.stackDepth ∧
    ({ State.reset with sp := 1 } : State).sp ≠ 0 ∧
    ({ State.reset with sp := 16 } : State).sp ≤ ({ State.reset with sp := 16 } : State).stack.length ∧
    State.reset.sp = 0 := by decide

/-- A CALL with one place left, and the state it leaves as the state of the RET. -/
theorem witness_CallThenReturn :
    ran (exec (.call 0x300) { State.reset with sp := 15, pc := 0x1000 }) (fun t => decide
      (t = { State.reset with sp := 16, pc := 0x300, stack := List.replicate 15 0 ++ [0x1000] })) = true := by decide

/-- The clauses `x ≠ vf`, and the destination that is `VF`. -/
theorem witness_FlagDestination : (14 : Reg) ≠ vf ∧ ¬((15 : Reg) ≠ vf) := by decide

theorem witness_RandomByte :
    ({ State.reset with env := { State.reset.env with rand := ⟨[0xA7], 0⟩ } } : State).env.rand.pending = 0xA7 :: [] ∧
    (0x0F : Byte).getLsbD 7 = false := by decide

/-- The highest `I` at which each memory instruction completes, and the lowest at which it faults. -/
theorem witness_Ranges :
    ea (regs 0xFFD []) 2 < 4096 ∧ 4096 ≤ ea (regs 0xFFE []) 2 ∧
    ea (regs 0xFF0 []) (15 : Reg).val < 4096 ∧ 4096 ≤ ea (regs 0xFF1 []) (15 : Reg).val ∧
    ea (regs 0xFFF []) (0 : Reg).val < 4096 ∧
    ea (regs 0xFF1 []) (15 : Nibble).toNat ≤ 4096 ∧ 0 < (15 : Nibble).toNat ∧
    4096 ≤ ea (regs 0xFF2 []) ((15 : Nibble).toNat - 1) ∧ (0 : Reg) ≤ 15 := by decide

/-- M32: STOR of 12 00 over the next instruction, and the state in which it is fetched. -/
def stored : State :=
  { regs 0x202 [(0, 0x12), (1, 0x00)] with
    rs := .running, pc := 0x202, ir := 0xF155, iaddr := 0x200
    env := { State.reset.env with poll := ⟨[.events []], 0⟩ } }

theorem witness_StoredBytes :
    ran (exec (.stor 1) stored) (fun t => decide (t = { stored with mem := [(0x202, 0x12)] })) = true ∧ ea stored 1 < 4096 ∧ stored.rs = .running ∧
    stored.pc = zext16 stored.i ∧ (stored.env.poll.draw Config.poll).1 = .events [] ∧
    decodeWord (wordOfBytes (readV stored 0) (readV stored 1)) = .ok (.jmp 0x200) := by decide

/-- A sprite byte at the last address, on a blank display and on one whose corner cell is lit. -/
def drawing (corner : Bool) : State :=
  { regs 0xFFF [] with mem := [(0xFFF, 0x81)], fb := Grid.xorCell (blankGrid defaultParams) 0 0 corner }

/-- The hypotheses of the two statements about DRAW, the collision clause and the clause without one. -/
theorem witness_Draw (corner : Bool) :
    (drawing corner).params.wellFormed = true ∧ Grid.shaped (drawing corner).params (drawing corner).fb ∧
    ea (drawing corner) (1 : Nibble).toNat ≤ 4096 :=
  ⟨by cases corner <;> decide, Grid.xorCell_shaped _ _ _ (blankGrid_shaped _), by cases corner <;> decide⟩

theorem witness_DrawCollision :
    ((drawing true).byte (ea (drawing true) 0)).getLsbD (7 - 0) = true ∧
    Grid.cell (drawing true).fb (((readV (drawing true) 2).toNat + 0) % 32) (((readV (drawing true) 1).toNat + 0) % 64) = true ∧
    (∀ row < 1, ∀ col < 8, ((drawing false).byte (ea (drawing false) row)).getLsbD (7 - col) = true →
      Grid.cell (drawing false).fb (((readV (drawing false) 2).toNat + row) % 32)
        (((readV (drawing false) 1).toNat + col) % 64) = false) := by decide

/-- A DRAW that completes, and the state it leaves taken as the state of the second DRAW. -/
theorem witness_DrawTwice :
    ran (exec (.draw 1 2 1) (drawing false))
      (fun t => decide (t.params = (drawing false).params) && t.i == (drawing false).i &&
        readV t 1 == readV (drawing false) 1 && readV t 2 == readV (drawing false) 2 &&
        decide (t.mem = (drawing false).mem)) = true := by decide

/-- A hit on the highest key and a miss. -/
theorem witness_KeySkips :
    ({ regs 0 [(0, 0xFF)] with keys := 0x8000 } : State).keys.getLsbD
      ((readV { regs 0 [(0, 0xFF)] with keys := 0x8000 } 0).toNat % 16) = true ∧
    ({ regs 0 [(0, 0)] with keys := 0x8000 } : State).keys.getLsbD
      ((readV { regs 0 [(0, 0)] with keys := 0x8000 } 0).toNat % 16) = false := by decide

/-- A running machine at the end of Memory with a full stack, its strobe up. -/
def full : State :=
  { atTop 0x12 0x00 with
    sp := 16, env := { State.reset.env with poll := ⟨[.events []], 0⟩, timerDue := ⟨[true], 0⟩ } }

/-- It meets the invariant, and its step is a next state. -/
theorem witness_Invariant : full.Inv ∧ ran (step full) (fun t => t.pc == 0x200 && t.rs == .running) = true := by
  refine ⟨?_, by decide⟩
  constructor
  case fb => exact blankGrid_shaped defaultParams
  case waiting => exact fun h => absurd h (by decide)
  case record => exact fun _ => rfl
  case entries =>
    intro a h
    rw [List.eq_of_mem_replicate (show a ∈ List.replicate 16 0 from h)]
    decide
  all_goals decide

/-- The transitions of R121: the tests above show those from STOPPED and WAITK and the ends by halt, quit and fault; here a
completed instruction and a started wait. -/
theorem witness_RunStateMoves :
    ran (step (at0200 0x1200 State.reset)) (fun t => t.rs == .running) = true ∧
    ran (step (at0200 0xF00A State.reset)) (fun t => t.rs == .waitk) = true := by decide

/-- An instruction of each kind of the access summary that completes, and one that enters its fault. -/
theorem witness_AccessSummary :
    ran (exec (.addReg 1 2) (regs 0 [(1, 0xFF), (2, 1)])) (fun t => readV t vf == 1 && readV t 1 == 0) = true ∧
    ran (exec (.bcd 3) (regs 0xFFE [])) (fun t => t.cause == some .outOfRange && t.mem == []) = true := by decide

/-- The clauses of the flag rule: a flag written, DRAW faulting with `VF` kept (G10), and an instruction without flag. -/
theorem witness_FlagRule :
    writesFlag (.shr 1 0) = true ∧ ran (exec (.shr 1 0) (regs 0 [(1, 3)])) (fun t => readV t vf == 1) = true ∧
    ran (exec (.draw 1 2 2) (regs 0xFFF [(15, 0x55)])) (fun t => readV t vf == 0x55 && t.cause == some .outOfRange) = true ∧
    writesFlag (.read 14) = false ∧ vf ∉ destinations (.read 14) ∧ vf ∈ destinations (.read 15) := by decide

/-- The clauses of the timer rule: set, kept, fallen by one, and frozen in a wait. -/
theorem witness_Timers :
    ran (step (atWith 0xF315 true (.events []) (regs 0 [(3, 0x3C)]))) (fun t => t.dt == 0x3C && t.ir == 0xF315) = true ∧
    ran (step (atWith 0x1200 true (.events []) { State.reset with dt := 1, st := 0 })) (fun t => t.dt == 0 && t.st == 0) = true ∧
    ran (step (waiting [.keyup 0])) (fun t => t.dt == 9) = true := by decide

end Sys2Proof.Tests
end

/-! ### A word and the rows of the opcode map (R94, R95) -/

namespace Sys2Proof

/-! #### The map itself: its rows are disjoint and their mnemonics distinct -/

/-- A word that matches two rows makes their fixed bits agree wherever both masks look. -/
theorem bits_and_mask_comm {w : Word16} {a b : OpRow} (ha : w &&& a.mask = a.bits) (hb : w &&& b.mask = b.bits) :
    a.bits &&& b.mask = b.bits &&& a.mask := by
  rw [← ha, ← hb, BitVec.and_assoc, BitVec.and_assoc, BitVec.and_comm a.mask]

/-- No two rows agree wherever both masks look. -/
theorem opcodeTable_disjoint :
    ∀ a ∈ opcodeTable, ∀ b ∈ opcodeTable, a.bits &&& b.mask = b.bits &&& a.mask → a = b := by decide

theorem row_unique_of_matches {w : Word16} {a b : OpRow} (hma : a ∈ opcodeTable) (hmb : b ∈ opcodeTable)
    (ha : w &&& a.mask = a.bits) (hb : w &&& b.mask = b.bits) : a = b :=
  opcodeTable_disjoint a hma b hmb (bits_and_mask_comm ha hb)

theorem opcodeTable_mnemonic_nodup : (opcodeTable.map OpRow.mnemonic).Nodup := by decide

theorem row_unique_of_mnemonic {a b : OpRow} (hma : a ∈ opcodeTable) (hmb : b ∈ opcodeTable)
    (h : a.mnemonic = b.mnemonic) : a = b :=
  List.inj_on_of_nodup_map opcodeTable_mnemonic_nodup hma hmb h

/-! #### The words no row matches -/

/-- The word matches no row of the map. -/
def MatchesNoRow (w : Word16) : Prop := ∀ r ∈ opcodeTable, w &&& r.mask ≠ r.bits

theorem fieldOp_and (w m : Word16) : fieldOp (w &&& m) = fieldOp w &&& fieldOp m := BitVec.extractLsb'_and

theorem fieldN_and (w m : Word16) : fieldN (w &&& m) = fieldN w &&& fieldN m := BitVec.extractLsb'_and

theorem fieldNN_and (w m : Word16) : fieldNN (w &&& m) = fieldNN w &&& fieldNN m := BitVec.extractLsb'_and

/-- Every mask of the map keeps `op`. -/
theorem fieldOp_mask : ∀ r ∈ opcodeTable, fieldOp r.mask = BitVec.allOnes 4 := by decide

theorem fieldOp_bits_of_matches {w : Word16} {r : OpRow} (hr : r ∈ opcodeTable) (h : w &&& r.mask = r.bits) :
    fieldOp r.bits = fieldOp w := by
  rw [← h, fieldOp_and, fieldOp_mask r hr, BitVec.and_allOnes]

/-- A family of words (one `op`) whose rows all fix one field has no row for a word with another value there. `field` is the
part of a word those rows fix: `n`, `nn` or the whole word. -/
theorem matchesNoRow_of_field {k : Nat} {field : Word16 → BitVec k} {w : Word16} {op : Nibble} {values : List (BitVec k)}
    (field_and : ∀ w m, field (w &&& m) = field w &&& field m)
    (rows : ∀ r ∈ opcodeTable, fieldOp r.bits = op → field r.mask = BitVec.allOnes k ∧ field r.bits ∈ values)
    (hop : fieldOp w = op) (hw : field w ∉ values) : MatchesNoRow w := by
  intro r hr h
  obtain ⟨hmask, hbits⟩ := rows r hr ((fieldOp_bits_of_matches hr h).trans hop)
  rw [← h, field_and, hmask, BitVec.and_allOnes] at hbits
  exact hw hbits

/-! #### What the decoder can answer -/

/-- An answer of the decoder, or of one family's part of it, to the word `w`: an instruction that `w` encodes, or an error
and then `P`. -/
def DecodesOr (d : Except DecodeError Instr) (w : Word16) (P : Prop) : Prop :=
  (∃ i, d = .ok i ∧ encodeWord i = w) ∨ (∃ e, d = .error e ∧ P)

theorem decodesOr_ok {i : Instr} {w : Word16} {P : Prop} (h : encodeWord i = w) : DecodesOr (.ok i) w P :=
  .inl ⟨i, rfl, h⟩

theorem decodesOr_error {e : DecodeError} {w : Word16} {P : Prop} (h : P) : DecodesOr (.error e) w P :=
  .inr ⟨e, rfl, h⟩

theorem DecodesOr.imp {d : Except DecodeError Instr} {w : Word16} {P Q : Prop} (h : DecodesOr d w P) (hPQ : P → Q) :
    DecodesOr d w Q := by
  obtain h | ⟨e, he, hP⟩ := h
  · exact .inl h
  · exact .inr ⟨e, he, hPQ hP⟩

/-- One test of a sub-decoder: the value tested for is an instruction, the others go on to the rest of the tests. -/
theorem decodesOr_ite {α : Type} [DecidableEq α] {a c : α} {cs : List α} {i : Instr} {d : Except DecodeError Instr}
    {w : Word16} (hi : a = c → encodeWord i = w) (hd : DecodesOr d w (a ∉ cs)) :
    DecodesOr (if a = c then .ok i else d) w (a ∉ c :: cs) := by
  split
  case isTrue h => exact decodesOr_ok (hi h)
  case isFalse h => exact hd.imp fun hcs hmem => (List.mem_cons.1 hmem).elim h hcs

/-- The only words of family 0 are `00E0` and `00EE` (D35). -/
theorem decodeFamily0_or {w : Word16} (hop : fieldOp w = 0x0) :
    DecodesOr (if w = 0x00E0 then .ok .cls else if w = 0x00EE then .ok .ret else .error .family0) w (MatchesNoRow w) := by
  refine DecodesOr.imp (P := w ∉ [0x00E0, 0x00EE]) ?_
    (matchesNoRow_of_field (field := id) (fun _ _ => rfl) (by decide) hop)
  exact decodesOr_ite Eq.symm (decodesOr_ite Eq.symm (decodesOr_error List.not_mem_nil))

/-- A family with one row, of `n = 0` (families 5 and 9). -/
theorem decodesOr_of_n_zero {w : Word16} {op : Nibble} {i : Instr} {e : DecodeError}
    (rows : ∀ r ∈ opcodeTable, fieldOp r.bits = op → fieldN r.mask = BitVec.allOnes 4 ∧ fieldN r.bits ∈ [0])
    (hop : fieldOp w = op) (hi : fieldN w = 0 → encodeWord i = w) :
    DecodesOr (if fieldN w = 0 then .ok i else .error e) w (MatchesNoRow w) :=
  (decodesOr_ite hi (decodesOr_error List.not_mem_nil)).imp (matchesNoRow_of_field fieldN_and rows hop)

theorem decodeFamily8_or {w : Word16} (hop : fieldOp w = 0x8) :
    DecodesOr (decodeFamily8 (fieldX w) (fieldY w) (fieldN w)) w (MatchesNoRow w) := by
  refine DecodesOr.imp (P := fieldN w ∉ [0x0, 0x1, 0x2, 0x3, 0x4, 0x5, 0x6, 0x7, 0xE]) ?_
    (matchesNoRow_of_field fieldN_and (by decide) hop)
  unfold decodeFamily8
  iterate 9 refine decodesOr_ite (encXYN_of_op hop) ?_
  exact decodesOr_error List.not_mem_nil

theorem decodeFamilyE_or {w : Word16} (hop : fieldOp w = 0xE) :
    DecodesOr (decodeFamilyE (fieldX w) (fieldNN w)) w (MatchesNoRow w) := by
  refine DecodesOr.imp (P := fieldNN w ∉ [0x9E, 0xA1]) ?_ (matchesNoRow_of_field fieldNN_and (by decide) hop)
  unfold decodeFamilyE
  iterate 2 refine decodesOr_ite (encXNN_of_op hop) ?_
  exact decodesOr_error List.not_mem_nil

theorem decodeFamilyF_or {w : Word16} (hop : fieldOp w = 0xF) :
    DecodesOr (decodeFamilyF (fieldX w) (fieldNN w)) w (MatchesNoRow w) := by
  refine DecodesOr.imp (P := fieldNN w ∉ [0x07, 0x0A, 0x15, 0x18, 0x1E, 0x29, 0x33, 0x55, 0x65]) ?_
    (matchesNoRow_of_field fieldNN_and (by decide) hop)
  unfold decodeFamilyF
  iterate 9 refine decodesOr_ite (encXNN_of_op hop) ?_
  exact decodesOr_error List.not_mem_nil

/-- The whole of what the decoder can answer: the instruction the word encodes, or an error for a word that matches no row. -/
theorem decodeWord_or (w : Word16) : DecodesOr (decodeWord w) w (MatchesNoRow w) := by
  unfold decodeWord
  split
  case h_1 h => exact decodeFamily0_or (fieldOp_eq h)
  case h_2 h => exact decodesOr_ok (encNNN_of_op (fieldOp_eq h))
  case h_3 h => exact decodesOr_ok (encNNN_of_op (fieldOp_eq h))
  case h_4 h => exact decodesOr_ok (encXNN_of_op (fieldOp_eq h) rfl)
  case h_5 h => exact decodesOr_ok (encXNN_of_op (fieldOp_eq h) rfl)
  case h_6 h => exact decodesOr_of_n_zero (by decide) (fieldOp_eq h) (encXYN_of_op (fieldOp_eq h))
  case h_7 h => exact decodesOr_ok (encXNN_of_op (fieldOp_eq h) rfl)
  case h_8 h => exact decodesOr_ok (encXNN_of_op (fieldOp_eq h) rfl)
  case h_9 h => exact decodeFamily8_or (fieldOp_eq h)
  case h_10 h => exact decodesOr_of_n_zero (by decide) (fieldOp_eq h) (encXYN_of_op (fieldOp_eq h))
  case h_11 h => exact decodesOr_ok (encNNN_of_op (fieldOp_eq h))
  case h_12 h => exact decodesOr_ok (encNNN_of_op (fieldOp_eq h))
  case h_13 h => exact decodesOr_ok (encXNN_of_op (fieldOp_eq h) rfl)
  case h_14 h => exact decodesOr_ok (encXYN_of_op (fieldOp_eq h) rfl)
  case h_15 h => exact decodeFamilyE_or (fieldOp_eq h)
  case h_16 =>
    have hlt := (fieldOp w).isLt
    have h : (fieldOp w).toNat = 15 := by
      simp only [imp_false] at *
      omega
    exact decodeFamilyF_or (fieldOp_eq h)

/-! #### Both directions between a word and its row -/

/-- Every instruction's word matches a row that bears its mnemonic. -/
theorem encodeWord_matches_row : ∀ i : Instr, Laws.FixedBits.Statement i
  | .cls => Laws.FixedBits.cls
  | .ret => Laws.FixedBits.ret
  | .jmp nnn => Laws.FixedBits.jmp nnn
  | .call nnn => Laws.FixedBits.call nnn
  | .se x nn => Laws.FixedBits.se x nn
  | .sne x nn => Laws.FixedBits.sne x nn
  | .seReg x y => Laws.FixedBits.seReg x y
  | .ldImm x nn => Laws.FixedBits.ldImm x nn
  | .addImm x nn => Laws.FixedBits.addImm x nn
  | .mov x y => Laws.FixedBits.mov x y
  | .orReg x y => Laws.FixedBits.orReg x y
  | .andReg x y => Laws.FixedBits.andReg x y
  | .xorReg x y => Laws.FixedBits.xorReg x y
  | .addReg x y => Laws.FixedBits.addReg x y
  | .sub x y => Laws.FixedBits.sub x y
  | .shr x y => Laws.FixedBits.shr x y
  | .subn x y => Laws.FixedBits.subn x y
  | .shl x y => Laws.FixedBits.shl x y
  | .sneReg x y => Laws.FixedBits.sneReg x y
  | .ldI nnn => Laws.FixedBits.ldI nnn
  | .jmpV0 nnn => Laws.FixedBits.jmpV0 nnn
  | .rnd x nn => Laws.FixedBits.rnd x nn
  | .draw x y n => Laws.FixedBits.draw x y n
  | .skp x => Laws.FixedBits.skp x
  | .sknp x => Laws.FixedBits.sknp x
  | .ldVxDt x => Laws.FixedBits.ldVxDt x
  | .ldVxK x => Laws.FixedBits.ldVxK x
  | .ldDtVx x => Laws.FixedBits.ldDtVx x
  | .ldStVx x => Laws.FixedBits.ldStVx x
  | .addIVx x => Laws.FixedBits.addIVx x
  | .ldIF x => Laws.FixedBits.ldIF x
  | .bcd x => Laws.FixedBits.bcd x
  | .stor x => Laws.FixedBits.stor x
  | .read x => Laws.FixedBits.read x

/-- A word that decodes matches a row that bears the instruction's mnemonic. -/
theorem matches_of_decodeWord {w : Word16} {i : Instr} (h : decodeWord w = .ok i) :
    ∃ r ∈ opcodeTable, r.mnemonic = i.mnemonic ∧ w &&& r.mask = r.bits := by
  obtain ⟨j, hj, hw⟩ | ⟨e, he, -⟩ := decodeWord_or w
  · obtain rfl : i = j := Except.ok.inj (h.symm.trans hj)
    exact hw ▸ encodeWord_matches_row i
  · cases h.symm.trans he

/-- A word that matches a row decodes. -/
theorem decodeWord_of_matches {w : Word16} {r : OpRow} (hr : r ∈ opcodeTable) (h : w &&& r.mask = r.bits) :
    ∃ i, decodeWord w = .ok i := by
  obtain ⟨i, hi, -⟩ | ⟨e, -, hno⟩ := decodeWord_or w
  · exact ⟨i, hi⟩
  · exact absurd h (hno r hr)

theorem decodeWord_error_iff_matchesNoRow (w : Word16) : (∃ e, decodeWord w = .error e) ↔ MatchesNoRow w := by
  constructor
  · rintro ⟨e, he⟩ r hr h
    obtain ⟨i, hi⟩ := decodeWord_of_matches hr h
    cases he.symm.trans hi
  · intro hno
    obtain ⟨i, hi, -⟩ | ⟨e, he, -⟩ := decodeWord_or w
    · obtain ⟨r, hr, -, h⟩ := matches_of_decodeWord hi
      exact absurd h (hno r hr)
    · exact ⟨e, he⟩

theorem matches_iff_decodeWord_mnemonic {w : Word16} {r : OpRow} (hr : r ∈ opcodeTable) :
    w &&& r.mask = r.bits ↔ ∃ i, decodeWord w = .ok i ∧ i.mnemonic = r.mnemonic := by
  constructor
  · intro h
    obtain ⟨i, hi⟩ := decodeWord_of_matches hr h
    obtain ⟨r', hr', hname, h'⟩ := matches_of_decodeWord hi
    obtain rfl := row_unique_of_matches hr hr' h h'
    exact ⟨i, hi, hname.symm⟩
  · rintro ⟨i, hi, hname⟩
    obtain ⟨r', hr', hname', h'⟩ := matches_of_decodeWord hi
    obtain rfl := row_unique_of_mnemonic hr hr' (hname.symm.trans hname'.symm)
    exact h'

/-- Settles O3: the decoder answers the instruction a word encodes or rejects a word that matches no row, and no two rows
of the map match one word or bear one mnemonic. -/
theorem wordIsItsRowExactlyWhenItMatches : Obligations.WordIsItsRowExactlyWhenItMatches :=
  ⟨fun _ _ hr => matches_iff_decodeWord_mnemonic hr, decodeWord_error_iff_matchesNoRow⟩

end Sys2Proof

/-! ### Jumps and skips (spec/41_flow.md) -/

namespace Sys2Proof.Machine

theorem exec_jmp (nnn : Addr) (s : State) : exec (.jmp nnn) s = .next (s.setPc (zext16 nnn)) := by
  rfl

theorem exec_se (x : Reg) (nn : Byte) (s : State) :
    exec (.se x nn) s = .next (skipIf (decide (readV s x = nn)) s) := by
  rfl

theorem exec_sne (x : Reg) (nn : Byte) (s : State) :
    exec (.sne x nn) s = .next (skipIf (decide (readV s x ≠ nn)) s) := by
  rfl

theorem exec_seReg (x y : Reg) (s : State) :
    exec (.seReg x y) s = .next (skipIf (decide (readV s x = readV s y)) s) := by
  rfl

theorem exec_sneReg (x y : Reg) (s : State) :
    exec (.sneReg x y) s = .next (skipIf (decide (readV s x ≠ readV s y)) s) := by
  rfl

/-- A skip on a condition moves `PC` past the next instruction exactly when it holds. -/
theorem skipIf_decide_pc (c : Prop) [Decidable c] (s : State) :
    (skipIf (decide c) s).pc = if c then s.pc + 2 else s.pc := by
  simp only [skipIf_pc, decide_eq_true_eq]

/-- A skip on the negation of a condition moves `PC` past the next instruction exactly when the condition fails. -/
theorem skipIf_decide_not_pc (c : Prop) [Decidable c] (s : State) :
    (skipIf (decide (¬c)) s).pc = if c then s.pc else s.pc + 2 := by
  rw [skipIf_decide_pc, ite_not]

/-- Settles O17: JMP puts its zero-extended address into `PC`, a write that keeps every other part. -/
theorem jumpSetsPc : Obligations.JumpSetsPc := fun nnn s =>
  ⟨_, exec_jmp nnn s, zext16_toNat nnn, frame_setPc s _⟩

/-- Settles O22: each of the four skips is `skipIf` on its comparison, negated in the SNE forms. -/
theorem skipsAdvancePcExactlyOnTheirCondition : Obligations.SkipsAdvancePcExactlyOnTheirCondition := by
  intro x y nn s
  refine ⟨?se, ?sne, ?seReg, ?sneReg⟩
  case se => exact ⟨_, exec_se x nn s, skipIf_decide_pc _ s, frame_skipIf _ s⟩
  case sne => exact ⟨_, exec_sne x nn s, skipIf_decide_not_pc _ s, frame_skipIf _ s⟩
  case seReg => exact ⟨_, exec_seReg x y s, skipIf_decide_pc _ s, frame_skipIf _ s⟩
  case sneReg => exact ⟨_, exec_sneReg x y s, skipIf_decide_not_pc _ s, frame_skipIf _ s⟩

end Sys2Proof.Machine

/-! ### Register loads, logic, addition and subtraction (spec/42_alu.md) -/

namespace Sys2Proof.Machine

/-! #### What each instruction writes -/

theorem exec_ldImm (x : Reg) (nn : Byte) (s : State) : exec (.ldImm x nn) s = .next (writeV s x nn) := by
  rfl

theorem exec_addImm (x : Reg) (nn : Byte) (s : State) :
    exec (.addImm x nn) s = .next (writeV s x (readV s x + nn)) := by
  rfl

theorem exec_mov (x y : Reg) (s : State) : exec (.mov x y) s = .next (writeV s x (readV s y)) := by
  rfl

theorem exec_orReg (x y : Reg) (s : State) :
    exec (.orReg x y) s = .next (writeV s x (readV s x ||| readV s y)) := by
  rfl

theorem exec_andReg (x y : Reg) (s : State) :
    exec (.andReg x y) s = .next (writeV s x (readV s x &&& readV s y)) := by
  rfl

theorem exec_xorReg (x y : Reg) (s : State) :
    exec (.xorReg x y) s = .next (writeV s x (readV s x ^^^ readV s y)) := by
  rfl

theorem exec_addReg (x y : Reg) (s : State) :
    exec (.addReg x y) s =
      .next (writeResultFlag s x ((sum9 (readV s x) (readV s y)).setWidth 8) (carry (readV s x) (readV s y))) := by
  rfl

theorem exec_sub (x y : Reg) (s : State) :
    exec (.sub x y) s = .next (writeResultFlag s x (readV s x - readV s y) (noBorrow (readV s x) (readV s y))) := by
  rfl

theorem exec_subn (x y : Reg) (s : State) :
    exec (.subn x y) s = .next (writeResultFlag s x (readV s y - readV s x) (noBorrow (readV s y) (readV s x))) := by
  rfl

/-! #### A result and its flag -/

/-- The low byte of the 9-bit sum is the sum modulo 256 (R177). -/
theorem sum9_low_toNat (a b : Byte) : ((sum9 a b).setWidth 8).toNat = (a.toNat + b.toNat) % 256 := by
  rw [BitVec.toNat_setWidth, sum9_toNat]

/-- The difference modulo 256, without a truncated subtraction (R178, R180). -/
theorem byte_sub_toNat (a b : Byte) : (a - b).toNat = (a.toNat + 256 - b.toNat) % 256 := by
  have hb := b.isLt
  rw [BitVec.toNat_sub]
  omega

/-- A flagged result leaves its value in `V[x]` unless `x` is 15, its condition in `VF`, and every other part as it was:
the flag is the last write (R22). -/
theorem writeResultFlag_effect (s : State) (x : Reg) {b : Byte} {c : Bool} {n : Nat} {p : Prop} [Decidable p]
    (hb : b.toNat = n) (hc : c = decide p) :
    (x ≠ vf → (readV (writeResultFlag s x b c) x).toNat = n) ∧
      readV (writeResultFlag s x b c) vf = (if p then 1 else 0) ∧ Frame [x, vf] [] s (writeResultFlag s x b c) := by
  refine ⟨?result, ?flag, frame_writeResultFlag s x b c⟩
  case result =>
    intro hx
    rw [readV_writeResultFlag_dst s b c hx, hb]
  case flag => simp only [readV_writeResultFlag_vf, flagByte_eq, hc, decide_eq_true_eq]

/-! #### The statements -/

/-- Settles O23: each of the three is one write of `V[x]`. -/
theorem loadsAndAddImmediateWriteOnlyTheirRegister : Obligations.LoadsAndAddImmediateWriteOnlyTheirRegister := by
  intro x y nn s
  refine ⟨?ldImm, ?addImm, ?mov⟩
  case ldImm => exact ⟨_, exec_ldImm x nn s, readV_writeV_self s x _, frame_writeV s x _⟩
  case addImm =>
    refine ⟨_, exec_addImm x nn s, ?_, frame_writeV s x _⟩
    rw [readV_writeV_self, BitVec.toNat_add]
  case mov => exact ⟨_, exec_mov x y s, readV_writeV_self s x _, frame_writeV s x _⟩

/-- Settles O24: each of the three is one write of `V[x]`, of a value computed bit by bit. -/
theorem logicActsOnEveryBitWithoutFlag : Obligations.LogicActsOnEveryBitWithoutFlag := by
  intro x y s
  refine ⟨?orReg, ?andReg, ?xorReg⟩
  case orReg =>
    refine ⟨_, exec_orReg x y s, frame_writeV s x _, fun k => ?_⟩
    rw [readV_writeV_self, BitVec.getLsbD_or]
  case andReg =>
    refine ⟨_, exec_andReg x y s, frame_writeV s x _, fun k => ?_⟩
    rw [readV_writeV_self, BitVec.getLsbD_and]
  case xorReg =>
    refine ⟨_, exec_xorReg x y s, frame_writeV s x _, fun k => ?_⟩
    rw [readV_writeV_self, BitVec.getLsbD_xor]

/-- Settles O25: bit 8 of the 9-bit sum is the carry, the bits below it are the sum modulo 256. -/
theorem addGivesTheSumAndItsCarry : Obligations.AddGivesTheSumAndItsCarry := fun x y s =>
  ⟨_, exec_addReg x y s, writeResultFlag_effect s x (sum9_low_toNat _ _) (carry_eq _ _)⟩

/-- Settles O26: SUB and SUBN are one flagged difference, with the operands exchanged. -/
theorem subtractionsGiveTheDifferenceAndNoBorrow : Obligations.SubtractionsGiveTheDifferenceAndNoBorrow := by
  intro x y s
  refine ⟨?sub, ?subn⟩
  case sub => exact ⟨_, exec_sub x y s, writeResultFlag_effect s x (byte_sub_toNat _ _) rfl⟩
  case subn => exact ⟨_, exec_subn x y s, writeResultFlag_effect s x (byte_sub_toNat _ _) rfl⟩

end Sys2Proof.Machine

/-! ### The address register (spec/43_index_memory.md) -/

namespace Sys2Proof.Machine

theorem exec_ldI (nnn : Addr) (s : State) : exec (.ldI nnn) s = .next (s.setI nnn) := by
  rfl

theorem exec_addIVx (x : Reg) (s : State) :
    exec (.addIVx x) s =
      .next (writeFlag (s.setI ((sum13 s.i (readV s x)).setWidth 12)) (addrOverflow s.i (readV s x))) := by
  rfl

/-- The low twelve bits of the 13-bit sum are the sum modulo 4096 (R201). -/
theorem sum13_low_toNat (i : Addr) (b : Byte) : ((sum13 i b).setWidth 12).toNat = (i.toNat + b.toNat) % 4096 := by
  rw [BitVec.toNat_setWidth, sum13_toNat]

/-- The address overflow is the sum exceeding 0xFFF (R201). -/
theorem addrOverflow_eq (i : Addr) (b : Byte) : addrOverflow i b = decide (0xFFF < i.toNat + b.toNat) := by
  rw [addrOverflow, sum13_toNat]

/-- Settles O29: LD I is one write of `I`; ADD I,Vx writes the low twelve bits of the 13-bit sum to `I`, and then
whether the sum exceeds 0xFFF to `VF`. -/
theorem addressRegisterWritesWrapAtTwelveBits : Obligations.AddressRegisterWritesWrapAtTwelveBits := by
  intro nnn x s
  refine ⟨?ldI, ?addIVx⟩
  case ldI => exact ⟨_, exec_ldI nnn s, State.setI_i s nnn, frame_setI s nnn⟩
  case addIVx =>
    refine ⟨_, exec_addIVx x s, sum13_low_toNat _ _, ?flag, ?frame⟩
    case flag => simp only [readV_writeFlag_vf, flagByte_eq, addrOverflow_eq, decide_eq_true_eq]
    case frame =>
      exact Frame.trans ((frame_setI s _).mono (by simp) (by simp)) ((frame_writeFlag _ _).mono (by simp) (by simp))

end Sys2Proof.Machine

/-! ### Clearing the display (spec/44_display.md) -/

namespace Sys2Proof.Machine

theorem exec_cls (s : State) : exec .cls s = .next (present (s.setFb (blankGrid s.params))) := by
  rfl

/-- Putting a grid on the display and presenting it writes the grid, adds one `present` that carries it, and changes
nothing else (R267). -/
theorem present_setFb_effect (s : State) (g : Grid) :
    (present (s.setFb g)).fb = g ∧ (present (s.setFb g)).env.presented = g :: s.env.presented ∧
      Frame [] [.fb, .presented] s (present (s.setFb g)) := by
  refine ⟨State.setFb_fb s g, rfl, ?frame⟩
  case frame =>
    exact Frame.trans ((frame_setFb s g).mono (by simp) (by simp)) ((frame_present _).mono (by simp) (by simp))

/-- Settles O36: CLS puts the blank grid on the display, whatever stood there before, and presents it. -/
theorem clearUnlightsEveryCell : Obligations.ClearUnlightsEveryCell := by
  intro s
  obtain ⟨hfb, hpresented, hframe⟩ := present_setFb_effect s (blankGrid s.params)
  refine ⟨_, exec_cls s, ?shaped, ?unlit, ?presented, hframe⟩
  case shaped => rw [hfb]; exact blankGrid_shaped s.params
  case unlit => intro r c; rw [hfb, cell_blankGrid]
  case presented => rw [hpresented, hfb]

end Sys2Proof.Machine

/-! ### The decoder and the encoder are inverse to each other (R90 to R95) -/

namespace Sys2Proof

/-! #### Decoding an encoded word -/

theorem decodeWord_family8 (x y : Reg) (n : Nibble) : decodeWord (encXYN 0x8 x y n) = decodeFamily8 x y n := by
  simp [decodeWord]

theorem decodeWord_familyE (x : Reg) (nn : Byte) : decodeWord (encXNN 0xE x nn) = decodeFamilyE x nn := by
  simp [decodeWord]

theorem decodeWord_familyF (x : Reg) (nn : Byte) : decodeWord (encXNN 0xF x nn) = decodeFamilyF x nn := by
  simp [decodeWord]

theorem decodeWord_encodeWord (i : Instr) : decodeWord (encodeWord i) = .ok i := by
  cases i with
  | cls | ret => rfl
  | mov x y | orReg x y | andReg x y | xorReg x y | addReg x y | sub x y | shr x y | subn x y | shl x y =>
    exact decodeWord_family8 x y _
  | skp x | sknp x => exact decodeWord_familyE x _
  | ldVxDt x | ldVxK x | ldDtVx x | ldStVx x | addIVx x | ldIF x | bcd x | stor x | read x =>
    exact decodeWord_familyF x _
  | _ => simp [encodeWord, decodeWord]

/-- Two bytes that spell an instruction's word decode to it, whatever follows them (R65, R90). -/
theorem decode_encode_append (i : Instr) (rest : List Byte) : decode (encode i ++ rest) = .ok (i, rest) := by
  have hcons : encode i ++ rest = (encodeWord i).extractLsb' 8 8 :: (encodeWord i).extractLsb' 0 8 :: rest := rfl
  rw [hcons, decode_cons, wordOfBytes_bytes, decodeWord_encodeWord]
  rfl

/-- Settles O1: the fields of an encoded word are its operands, and its two bytes make the word again. -/
theorem decodeOfEncodeIsTheInstruction : Obligations.DecodeOfEncodeIsTheInstruction :=
  fun i rest => ⟨decodeWord_encodeWord i, decode_encode_append i rest⟩

/-! #### Encoding a decoded word -/

theorem encodeWord_of_decodeWord {w : Word16} {i : Instr} (h : decodeWord w = .ok i) : encodeWord i = w := by
  obtain ⟨j, hj, hw⟩ | ⟨e, he, -⟩ := decodeWord_or w
  · obtain rfl : i = j := Except.ok.inj (h.symm.trans hj)
    exact hw
  · cases h.symm.trans he

/-- The operand types carry the bounds of R91. -/
theorem Instr.wellFormed_eq_true (i : Instr) : i.wellFormed = true := by
  have reg (r : Reg) : regOk r = true := decide_eq_true r.isLt
  have nibble (n : Nibble) : nibbleOk n.toNat = true := decide_eq_true n.isLt
  have byte (nn : Byte) : byteOk nn.toNat = true := decide_eq_true nn.isLt
  have addr (nnn : Addr) : addrOk nnn.toNat = true := decide_eq_true nnn.isLt
  cases i <;> simp only [Instr.wellFormed, reg, nibble, byte, addr, Bool.and_self]

/-- Settles O2: the decoder answers only an instruction whose word it was given, and every term is well formed by its
types. -/
theorem encodeOfDecodeIsTheWord : Obligations.EncodeOfDecodeIsTheWord :=
  fun _ i h => ⟨encodeWord_of_decodeWord h, i.wellFormed_eq_true⟩

/-! #### The illegal words, family by family (R95) -/

theorem not_exists_ok_eq_error (i : Instr) : ¬∃ e : DecodeError, (.ok i : Except DecodeError Instr) = .error e := by
  rintro ⟨e, he⟩
  cases he

theorem exists_error_eq_error (d : DecodeError) : ∃ e, (.error d : Except DecodeError Instr) = .error e := ⟨d, rfl⟩

/-- One test of a sub-decoder: the value tested for is legal, the others are left to the rest of the tests. -/
theorem ite_ok_isError_iff {p : Prop} [Decidable p] {i : Instr} {d : Except DecodeError Instr} :
    (∃ e, (if p then .ok i else d) = .error e) ↔ ¬p ∧ ∃ e, d = .error e := by
  split
  case isTrue h => exact iff_of_false (not_exists_ok_eq_error i) fun k => k.1 h
  case isFalse h => exact (and_iff_right h).symm

theorem decodeFamily8_isError_iff (x y : Reg) (n : Nibble) :
    (∃ e, decodeFamily8 x y n = .error e) ↔ 7 < n.toNat ∧ n ≠ 0xE := by
  simp only [decodeFamily8, ite_ok_isError_iff, exists_error_eq_error, and_true]
  revert n
  decide

theorem decodeFamilyE_isError_iff (x : Reg) (nn : Byte) :
    (∃ e, decodeFamilyE x nn = .error e) ↔ nn ≠ 0x9E ∧ nn ≠ 0xA1 := by
  simp only [decodeFamilyE, ite_ok_isError_iff, exists_error_eq_error, and_true, ne_eq]

theorem decodeFamilyF_isError_iff (x : Reg) (nn : Byte) :
    (∃ e, decodeFamilyF x nn = .error e) ↔
      nn ∉ ([0x07, 0x0A, 0x15, 0x18, 0x1E, 0x29, 0x33, 0x55, 0x65] : List Byte) := by
  simp only [decodeFamilyF, ite_ok_isError_iff, exists_error_eq_error, and_true, List.mem_cons, List.not_mem_nil,
    or_false, not_or]

/-- Settles O4: in each family the sub-decoder rejects what its row of R95 lists; the ten families without a row there
reject nothing. -/
theorem illegalWordsAreExactlyThoseListed : Obligations.IllegalWordsAreExactlyThoseListed := by
  intro w
  unfold decodeWord
  split
  case h_1 h => simp [fieldOp_eq h, ite_ok_isError_iff]
  case h_6 h => simp [fieldOp_eq h, ite_ok_isError_iff]
  case h_9 h => simp [fieldOp_eq h, decodeFamily8_isError_iff]
  case h_10 h => simp [fieldOp_eq h, ite_ok_isError_iff]
  case h_15 h => simp [fieldOp_eq h, decodeFamilyE_isError_iff]
  case h_16 =>
    have hop : (fieldOp w).toNat = 15 := by
      have hlt := (fieldOp w).isLt
      simp only [imp_false] at *
      omega
    simp [fieldOp_eq hop, decodeFamilyF_isError_iff]
  case h_2 h | h_3 h | h_4 h | h_5 h | h_7 h | h_8 h | h_11 h | h_12 h | h_13 h | h_14 h => simp [fieldOp_eq h]

/-- Settles O5, by running the decoder on the twelve words. -/
theorem wordsWrittenOutDecode : Obligations.WordsWrittenOutDecode := by
  unfold Obligations.WordsWrittenOutDecode
  decide

end Sys2Proof

/-! ### What executing an instruction answers (R128) -/

namespace Sys2Proof.Machine

/-! #### One equation per instruction, or per case of one that can fault -/

theorem exec_ret_live {s : State} (h : s.sp ≠ 0) :
    exec .ret s = .next ((s.setSp (s.sp - 1)).setPc (s.stack.getD (s.sp - 1) 0)) := by
  simp only [exec, execRet, pop_eq_some.mpr ⟨h, rfl, rfl⟩]

theorem exec_ret_empty {s : State} (h : s.sp = 0) : exec .ret s = raise .stackUnderflow s := by
  simp only [exec, execRet, pop_eq_none.mpr h]

/-- The state CALL leaves when the stack has room (R152). -/
def State.called (s : State) (nnn : Addr) : State :=
  ((s.setStack (s.stack.set s.sp s.pc)).setSp (s.sp + 1)).setPc (zext16 nnn)

theorem exec_call_room {s : State} (nnn : Addr) (h : s.sp ≠ s.params.stackDepth) :
    exec (.call nnn) s = .next (s.called nnn) := by
  simp only [exec, execCall, push_eq_some.mpr ⟨h, rfl⟩, State.called]

theorem exec_call_full {s : State} (nnn : Addr) (h : s.sp = s.params.stackDepth) :
    exec (.call nnn) s = raise .stackOverflow s := by
  simp only [exec, execCall, push_eq_none.mpr h]

theorem exec_jmpV0 (nnn : Addr) (s : State) :
    exec (.jmpV0 nnn) s = .next (s.setPc (zext16 nnn + (readV s 0).setWidth 16)) := by
  rfl

theorem exec_shr (x y : Reg) (s : State) :
    exec (.shr x y) s = .next (writeResultFlag s x (readV s x >>> 1) (lowBit (readV s x))) := by
  rfl

theorem exec_shl (x y : Reg) (s : State) :
    exec (.shl x y) s = .next (writeResultFlag s x (readV s x <<< 1) (highBit (readV s x))) := by
  rfl

theorem exec_rnd (x : Reg) (nn : Byte) (s : State) :
    exec (.rnd x nn) s = .next (writeV (drawRand s).2 x ((s.env.rand.draw Config.rand).1 &&& nn)) := by
  rfl

/-- The sprite of a DRAW of height `n` at `I`, as pixels. -/
def State.spriteAtI (s : State) (x y : Reg) (n : Nibble) : List Pixel :=
  drawPixels x y (Memory.readList s.params s.mem (ea s 0) n.toNat) s

theorem exec_draw_in (x y : Reg) {n : Nibble} {s : State} (h : ea s n.toNat ≤ 4096) :
    exec (.draw x y n) s =
      .next (writeFlag (present (s.setFb (blit s.fb (s.spriteAtI x y n)))) (collides s.fb (s.spriteAtI x y n))) := by
  have hin : ea s 0 + n.toNat ≤ Config.memSize := h
  simp only [exec, execDraw, loadBytes_eq_some.mpr ⟨hin, rfl⟩, State.spriteAtI]

theorem exec_draw_out (x y : Reg) {n : Nibble} {s : State} (h : 4096 < ea s n.toNat) :
    exec (.draw x y n) s = raise .outOfRange s := by
  have hout : Config.memSize < ea s 0 + n.toNat := h
  simp only [exec, execDraw, loadBytes_eq_none.mpr hout]

theorem exec_skp (x : Reg) (s : State) :
    exec (.skp x) s = .next (skipIf (queryKey s (keyOf (readV s x))).1 (queryKey s (keyOf (readV s x))).2) := by
  rfl

theorem exec_sknp (x : Reg) (s : State) :
    exec (.sknp x) s = .next (skipIf (!(queryKey s (keyOf (readV s x))).1) (queryKey s (keyOf (readV s x))).2) := by
  rfl

theorem exec_ldVxDt (x : Reg) (s : State) : exec (.ldVxDt x) s = .next (writeV s x s.dt) := by
  rfl

theorem exec_ldVxK (x : Reg) (s : State) : exec (.ldVxK x) s = .next (s.setRs .waitk) := by
  rfl

theorem exec_ldDtVx (x : Reg) (s : State) : exec (.ldDtVx x) s = .next (s.setDt (readV s x)) := by
  rfl

theorem exec_ldStVx (x : Reg) (s : State) : exec (.ldStVx x) s = .next (s.setSt (readV s x)) := by
  rfl

theorem exec_ldIF (x : Reg) (s : State) : exec (.ldIF x) s = .next (s.setI (glyphAddr s.params (readV s x))) := by
  rfl

/-- The state a store of the bytes `bs` from `I` on leaves. -/
def State.storedAtI (s : State) (bs : List Byte) : State :=
  s.setMem (Memory.writeList s.params s.mem (ea s 0) bs)

/-- The highest address of a block of `n + 1` bytes is inside Memory exactly when the block is. -/
theorem ea_lt_memSize_iff (s : State) (n : Nat) : ea s n < 4096 ↔ ea s 0 + (n + 1) ≤ Config.memSize := by
  simp only [ea, memSize_eq]
  omega

theorem memSize_lt_iff_le_ea (s : State) (n : Nat) : 4096 ≤ ea s n ↔ Config.memSize < ea s 0 + (n + 1) := by
  simp only [ea, memSize_eq]
  omega

@[simp] theorem bcdDigits_length (b : Byte) : (bcdDigits b).length = 3 := by
  rfl

theorem exec_bcd_in {x : Reg} {s : State} (h : ea s 2 < 4096) :
    exec (.bcd x) s = .next (s.storedAtI (bcdDigits (readV s x))) := by
  have hin : ea s 0 + (bcdDigits (readV s x)).length ≤ Config.memSize := (ea_lt_memSize_iff s 2).mp h
  simp only [exec, execBcd, storeBytes_eq_some.mpr ⟨hin, rfl⟩, State.storedAtI]

theorem exec_bcd_out {x : Reg} {s : State} (h : 4096 ≤ ea s 2) : exec (.bcd x) s = raise .outOfRange s := by
  have hout : Config.memSize < ea s 0 + (bcdDigits (readV s x)).length := (memSize_lt_iff_le_ea s 2).mp h
  simp only [exec, execBcd, storeBytes_eq_none.mpr hout]

theorem exec_stor_in {x : Reg} {s : State} (h : ea s x.val < 4096) :
    exec (.stor x) s = .next (s.storedAtI (readBlock s x)) := by
  have hin : ea s 0 + (readBlock s x).length ≤ Config.memSize := by
    rw [readBlock_length]
    exact (ea_lt_memSize_iff s _).mp h
  simp only [exec, execStor, storeBytes_eq_some.mpr ⟨hin, rfl⟩, State.storedAtI]

theorem exec_stor_out {x : Reg} {s : State} (h : 4096 ≤ ea s x.val) : exec (.stor x) s = raise .outOfRange s := by
  have hout : Config.memSize < ea s 0 + (readBlock s x).length := by
    rw [readBlock_length]
    exact (memSize_lt_iff_le_ea s _).mp h
  simp only [exec, execStor, storeBytes_eq_none.mpr hout]

/-- The bytes a READ up to register `x` takes from Memory. -/
def State.blockAtI (s : State) (x : Reg) : List Byte := Memory.readList s.params s.mem (ea s 0) (x.val + 1)

theorem exec_read_in {x : Reg} {s : State} (h : ea s x.val < 4096) :
    exec (.read x) s = .next (s.setV (setRegs s.v 0 (s.blockAtI x))) := by
  simp only [exec, execRead, loadBytes_eq_some.mpr ⟨(ea_lt_memSize_iff s _).mp h, rfl⟩, State.blockAtI]

theorem exec_read_out {x : Reg} {s : State} (h : 4096 ≤ ea s x.val) : exec (.read x) s = raise .outOfRange s := by
  simp only [exec, execRead, loadBytes_eq_none.mpr ((memSize_lt_iff_le_ea s _).mp h)]

/-! #### What is known of the state an instruction that can fault answers -/

section
variable {s t : State}

theorem next_of_eq {r : Result} {u : State} (h : r = .next t) (k : r = .next u) : t = u := by
  cases h.symm.trans k
  rfl

/-- The state the entry of fault `f` leaves (R295). -/
def State.afterFault (s : State) (f : Fault) : State := (s.setRecord .fault (some f)).setRs .stopped

theorem eq_of_raise {f : Fault} (h : raise f s = .next t) : t = s.afterFault f := next_of_eq h rfl

theorem exec_ret_cases (h : exec .ret s = .next t) :
    (s.sp ≠ 0 ∧ t = (s.setSp (s.sp - 1)).setPc (s.stack.getD (s.sp - 1) 0)) ∨ ∃ f, t = s.afterFault f := by
  by_cases hsp : s.sp = 0
  · exact .inr ⟨_, eq_of_raise ((exec_ret_empty hsp).symm.trans h)⟩
  · exact .inl ⟨hsp, next_of_eq h (exec_ret_live hsp)⟩

theorem exec_call_cases {nnn : Addr} (h : exec (.call nnn) s = .next t) :
    (s.sp ≠ s.params.stackDepth ∧ t = s.called nnn) ∨ ∃ f, t = s.afterFault f := by
  by_cases hsp : s.sp = s.params.stackDepth
  · exact .inr ⟨_, eq_of_raise ((exec_call_full nnn hsp).symm.trans h)⟩
  · exact .inl ⟨hsp, next_of_eq h (exec_call_room nnn hsp)⟩

theorem exec_draw_cases {x y : Reg} {n : Nibble} (h : exec (.draw x y n) s = .next t) :
    (ea s n.toNat ≤ 4096 ∧
      t = writeFlag (present (s.setFb (blit s.fb (s.spriteAtI x y n)))) (collides s.fb (s.spriteAtI x y n))) ∨
    ∃ f, t = s.afterFault f := by
  obtain hout | hin := Nat.lt_or_ge 4096 (ea s n.toNat)
  · exact .inr ⟨_, eq_of_raise ((exec_draw_out x y hout).symm.trans h)⟩
  · exact .inl ⟨hin, next_of_eq h (exec_draw_in x y hin)⟩

theorem exec_bcd_cases {x : Reg} (h : exec (.bcd x) s = .next t) :
    (ea s 2 < 4096 ∧ t = s.storedAtI (bcdDigits (readV s x))) ∨ ∃ f, t = s.afterFault f := by
  obtain hin | hout := Nat.lt_or_ge (ea s 2) 4096
  · exact .inl ⟨hin, next_of_eq h (exec_bcd_in hin)⟩
  · exact .inr ⟨_, eq_of_raise ((exec_bcd_out hout).symm.trans h)⟩

theorem exec_stor_cases {x : Reg} (h : exec (.stor x) s = .next t) :
    (ea s x.val < 4096 ∧ t = s.storedAtI (readBlock s x)) ∨ ∃ f, t = s.afterFault f := by
  obtain hin | hout := Nat.lt_or_ge (ea s x.val) 4096
  · exact .inl ⟨hin, next_of_eq h (exec_stor_in hin)⟩
  · exact .inr ⟨_, eq_of_raise ((exec_stor_out hout).symm.trans h)⟩

theorem exec_read_cases {x : Reg} (h : exec (.read x) s = .next t) :
    (ea s x.val < 4096 ∧ t = s.setV (setRegs s.v 0 (s.blockAtI x))) ∨ ∃ f, t = s.afterFault f := by
  obtain hin | hout := Nat.lt_or_ge (ea s x.val) 4096
  · exact .inl ⟨hin, next_of_eq h (exec_read_in hin)⟩
  · exact .inr ⟨_, eq_of_raise ((exec_read_out hout).symm.trans h)⟩

end

/-! #### The frames the shared operations do not give alone -/

theorem frame_called (s : State) (nnn : Addr) : Frame [] [.pc, .sp, .stack] s (s.called nnn) :=
  ⟨fun _ _ => rfl, fun q h => by cases q <;> simp_all [Part.kept, State.called], rfl⟩

theorem frame_popped (s : State) (n : Nat) (a : Word16) : Frame [] [.pc, .sp] s ((s.setSp n).setPc a) :=
  Frame.trans ((frame_setSp s n).mono (by simp) (by simp)) ((frame_setPc _ a).mono (by simp) (by simp))

theorem frame_rnd (s : State) (x : Reg) (b : Byte) : Frame [x] [.rand] s (writeV (drawRand s).2 x b) :=
  Frame.trans ((frame_drawRand s).mono (by simp) (by simp)) ((frame_writeV _ x b).mono (by simp) (by simp))

theorem frame_setI_writeFlag (s : State) (a : Addr) (c : Bool) : Frame [vf] [.i] s (writeFlag (s.setI a) c) :=
  Frame.trans ((frame_setI s a).mono (by simp) (by simp)) ((frame_writeFlag _ c).mono (by simp) (by simp))

theorem frame_drawn (s : State) (g : Grid) (c : Bool) :
    Frame [vf] [.fb, .presented] s (writeFlag (present (s.setFb g)) c) :=
  Frame.trans ((present_setFb_effect s g).2.2.mono (by simp) (by simp)) ((frame_writeFlag _ c).mono (by simp) (by simp))

theorem frame_queryKey_skipIf (s : State) (k : Key) (c : Bool) :
    Frame [] [.pc, .keys] s (skipIf c (queryKey s k).2) := by
  have hquery : Frame [] [.pc, .keys] s (queryKey s k).2 := by
    obtain ⟨-, h⟩ | ⟨-, h⟩ := queryKey_cases s k
    · rw [h]
      exact (frame_setKeys s 0).mono (by simp) (by simp)
    · rw [h]
      exact Frame.refl _ _ s
  exact hquery.trans ((frame_skipIf c _).mono (by simp) (by simp))

theorem mem_blockRegs {r x : Reg} : r ∈ blockRegs x ↔ r ≤ x := by
  simp [blockRegs]

/-- READ leaves the byte at `I + r` in `V[r]` up to `x`, and the registers above as they were (R205). -/
theorem readV_block (s : State) (x r : Reg) :
    readV (s.setV (setRegs s.v 0 (s.blockAtI x))) r = if r ≤ x then s.byte (ea s r.val) else readV s r := by
  have hlen : (s.blockAtI x).length = x.val + 1 := Memory.readList_length ..
  rw [readV_setV, setRegs_getElem _ _ _ r.isLt]
  split
  case isTrue h =>
    rw [if_pos (Fin.le_def.mpr (by omega))]
    exact Memory.readList_getElem ..
  case isFalse h => rw [if_neg fun hle => h ⟨Nat.zero_le _, by have := Fin.le_def.mp hle; omega⟩, readV]

theorem frame_read (s : State) (x : Reg) : Frame (blockRegs x) [] s (s.setV (setRegs s.v 0 (s.blockAtI x))) :=
  frame_setV fun r hr => by rw [← readV_setV s, readV_block, if_neg fun h => hr (mem_blockRegs.mpr h)]

/-! #### The access summary (R35) -/

/-- The registers the row of the access summary marks as written: the destinations, and `VF` for a flag. -/
abbrev writtenRegs (i : Instr) : List Reg := destinations i ++ if writesFlag i then [vf] else []

/-- An answer within the row of `i` in the access summary: a next state that keeps what the row does not mark, or the entry
of fault `f`. -/
def AnswersWithin (i : Instr) (s : State) (r : Result) : Prop :=
  ∃ t, r = .next t ∧ (Frame (writtenRegs i) (writtenParts i) s t ∨ ∃ f, FaultEntry f s t)

theorem answersWithin_next {i : Instr} {s t : State} {r : Result} (h : r = .next t)
    (k : Frame (writtenRegs i) (writtenParts i) s t) : AnswersWithin i s r :=
  ⟨t, h, .inl k⟩

theorem answersWithin_raise {i : Instr} {s : State} {r : Result} {f : Fault} (h : r = raise f s) :
    AnswersWithin i s r := by
  obtain ⟨t, ht, hf⟩ := raise_entry f s
  exact ⟨t, h.trans ht, .inr ⟨f, hf⟩⟩

/-- Every instruction, in every state, answers within its row of the access summary. -/
theorem exec_answersWithin (i : Instr) (s : State) : AnswersWithin i s (exec i s) := by
  cases i with
  | cls => exact answersWithin_next (exec_cls s) (present_setFb_effect s _).2.2
  | ret =>
    by_cases h : s.sp = 0
    · exact answersWithin_raise (exec_ret_empty h)
    · exact answersWithin_next (exec_ret_live h) (frame_popped s _ _)
  | jmp nnn => exact answersWithin_next (exec_jmp nnn s) (frame_setPc s _)
  | call nnn =>
    by_cases h : s.sp = s.params.stackDepth
    · exact answersWithin_raise (exec_call_full nnn h)
    · exact answersWithin_next (exec_call_room nnn h) (frame_called s nnn)
  | se x nn => exact answersWithin_next (exec_se x nn s) (frame_skipIf _ s)
  | sne x nn => exact answersWithin_next (exec_sne x nn s) (frame_skipIf _ s)
  | seReg x y => exact answersWithin_next (exec_seReg x y s) (frame_skipIf _ s)
  | ldImm x nn => exact answersWithin_next (exec_ldImm x nn s) (frame_writeV s x _)
  | addImm x nn => exact answersWithin_next (exec_addImm x nn s) (frame_writeV s x _)
  | mov x y => exact answersWithin_next (exec_mov x y s) (frame_writeV s x _)
  | orReg x y => exact answersWithin_next (exec_orReg x y s) (frame_writeV s x _)
  | andReg x y => exact answersWithin_next (exec_andReg x y s) (frame_writeV s x _)
  | xorReg x y => exact answersWithin_next (exec_xorReg x y s) (frame_writeV s x _)
  | addReg x y => exact answersWithin_next (exec_addReg x y s) (frame_writeResultFlag s x _ _)
  | sub x y => exact answersWithin_next (exec_sub x y s) (frame_writeResultFlag s x _ _)
  | shr x y => exact answersWithin_next (exec_shr x y s) (frame_writeResultFlag s x _ _)
  | subn x y => exact answersWithin_next (exec_subn x y s) (frame_writeResultFlag s x _ _)
  | shl x y => exact answersWithin_next (exec_shl x y s) (frame_writeResultFlag s x _ _)
  | sneReg x y => exact answersWithin_next (exec_sneReg x y s) (frame_skipIf _ s)
  | ldI nnn => exact answersWithin_next (exec_ldI nnn s) (frame_setI s _)
  | jmpV0 nnn => exact answersWithin_next (exec_jmpV0 nnn s) (frame_setPc s _)
  | rnd x nn => exact answersWithin_next (exec_rnd x nn s) (frame_rnd s x _)
  | draw x y n =>
    obtain h | h := Nat.lt_or_ge 4096 (ea s n.toNat)
    · exact answersWithin_raise (exec_draw_out x y h)
    · exact answersWithin_next (exec_draw_in x y h) (frame_drawn s _ _)
  | skp x => exact answersWithin_next (exec_skp x s) (frame_queryKey_skipIf s _ _)
  | sknp x => exact answersWithin_next (exec_sknp x s) (frame_queryKey_skipIf s _ _)
  | ldVxDt x => exact answersWithin_next (exec_ldVxDt x s) (frame_writeV s x _)
  | ldVxK x => exact answersWithin_next (exec_ldVxK x s) (frame_setRs s _)
  | ldDtVx x => exact answersWithin_next (exec_ldDtVx x s) (frame_setDt s _)
  | ldStVx x => exact answersWithin_next (exec_ldStVx x s) (frame_setSt s _)
  | addIVx x => exact answersWithin_next (exec_addIVx x s) (frame_setI_writeFlag s _ _)
  | ldIF x => exact answersWithin_next (exec_ldIF x s) (frame_setI s _)
  | bcd x =>
    obtain h | h := Nat.lt_or_ge (ea s 2) 4096
    · exact answersWithin_next (exec_bcd_in h) (frame_setMem s _)
    · exact answersWithin_raise (exec_bcd_out h)
  | stor x =>
    obtain h | h := Nat.lt_or_ge (ea s x.val) 4096
    · exact answersWithin_next (exec_stor_in h) (frame_setMem s _)
    · exact answersWithin_raise (exec_stor_out h)
  | read x =>
    obtain h | h := Nat.lt_or_ge (ea s x.val) 4096
    · exact answersWithin_next (exec_read_in h) ((frame_read s x).mono (List.subset_append_left _ _) (by simp))
    · exact answersWithin_raise (exec_read_out h)

/-- Settles O46: what `exec_answersWithin` says of the one state the instruction answers. -/
theorem accessSummaryBoundsEveryInstruction : Obligations.AccessSummaryBoundsEveryInstruction := by
  intro i s t h
  obtain ⟨t', ht, hwithin⟩ := exec_answersWithin i s
  rwa [next_of_eq h ht]

end Sys2Proof.Machine

/-! ### What every instruction leaves alone (R35, R121) -/

namespace Sys2Proof.Machine

/-! #### The parts only one instruction writes, or none -/

theorem fetched_not_written (i : Instr) : Part.fetched ∉ writtenParts i := by cases i <;> simp [writtenParts]

theorem record_not_written (i : Instr) : Part.record ∉ writtenParts i := by cases i <;> simp [writtenParts]

theorem rs_written {i : Instr} (h : Part.rs ∈ writtenParts i) : ∃ x, i = .ldVxK x := by
  cases i <;> simp_all [writtenParts]

theorem dt_written {i : Instr} (h : Part.dt ∈ writtenParts i) : ∃ x, i = .ldDtVx x := by
  cases i <;> simp_all [writtenParts]

theorem st_written {i : Instr} (h : Part.st ∈ writtenParts i) : ∃ x, i = .ldStVx x := by
  cases i <;> simp_all [writtenParts]

/-! #### What the answer keeps -/

section
variable {i : Instr} {s t : State}

theorem exec_params (h : exec i s = .next t) : t.params = s.params := by
  obtain k | ⟨f, -, -, -, k⟩ := accessSummaryBoundsEveryInstruction i s t h
  · exact k.2.2
  · exact k.2.2

/-- A part that an instruction does not mark as written is kept, in a fault entry too, unless it is the stop record or the
run state, which a fault entry writes. -/
theorem exec_keeps {q : Part} (h : exec i s = .next t) (hq : q ∉ writtenParts i) (hfault : q ∉ [Part.record, .rs]) :
    q.kept s t := by
  obtain k | ⟨f, -, -, -, k⟩ := accessSummaryBoundsEveryInstruction i s t h
  · exact k.2.1 q hq
  · exact k.2.1 q hfault

/-- How an instruction executed in a run leaves the run: it goes on, it waits after LD Vx,K, or it has ended in a fault;
the stop record is written in a fault alone. -/
theorem exec_runState (h : exec i s = .next t) :
    (t.rs = s.rs ∧ t.stopReason = s.stopReason ∧ t.cause = s.cause) ∨
    ((∃ x, i = .ldVxK x) ∧ t.rs = .waitk ∧ t.stopReason = s.stopReason ∧ t.cause = s.cause) ∨
    (t.rs = .stopped ∧ t.stopReason = .fault ∧ ∃ f, t.cause = some f) := by
  obtain k | ⟨f, hcause, hreason, hrs, -⟩ := accessSummaryBoundsEveryInstruction i s t h
  · obtain ⟨hreason, hcause⟩ := k.2.1 .record (record_not_written i)
    by_cases hrs : Part.rs ∈ writtenParts i
    · obtain ⟨x, rfl⟩ := rs_written hrs
      cases h.symm.trans (exec_ldVxK x s)
      exact .inr (.inl ⟨⟨x, rfl⟩, rfl, rfl, rfl⟩)
    · exact .inl ⟨k.2.1 .rs hrs, hreason, hcause⟩
  · exact .inr (.inr ⟨hrs, hreason, f, hcause⟩)

end

/-- Settles O44: `exec_answersWithin` for the instructions, and for a step its three run states. -/
theorem everyStepAnswersANextState : Obligations.EveryStepAnswersANextState := by
  have hexec (i : Instr) (s : State) : ∃ t, exec i s = .next t := by
    obtain ⟨t, ht, -⟩ := exec_answersWithin i s
    exact ⟨t, ht⟩
  refine ⟨hexec, fun s => ?_⟩
  cases hrs : s.rs with
  | stopped =>
    rw [step_stopped hrs, hostStep]
    split
    · exact ⟨_, rfl⟩
    · exact ⟨_, rfl⟩
  | running =>
    rw [step_running hrs]
    obtain ⟨-, h⟩ | ⟨-, -, h⟩ | ⟨-, l, -, ⟨e, -, h⟩ | ⟨i, -, h⟩⟩ := cycle_cases s
    · exact ⟨_, h⟩
    · exact ⟨_, h⟩
    · exact ⟨_, h⟩
    · rw [h]
      exact hexec i _
  | waitk =>
    rw [step_waitk hrs]
    obtain ⟨-, h⟩ | ⟨k, -, h⟩ | ⟨-, h⟩ := waitStep_cases s
    · exact ⟨_, h⟩
    · exact ⟨_, h⟩
    · exact ⟨_, h⟩

end Sys2Proof.Machine

/-! ### The invariant of the machine -/

namespace Sys2Proof.Machine

/-! #### The part of the invariant that does not speak of the run -/

/-- The clauses of `State.Inv` about the parameters, the call stack, Memory and the display. -/
structure State.Sound (s : State) : Prop where
  params : s.params.wellFormed = true
  sp : s.sp ≤ s.params.stackDepth
  depth : s.stack.length = s.params.stackDepth
  entries : ∀ a ∈ s.stack, a.toNat ≤ 0x1000
  mem : Memory.wf s.params s.mem
  fb : Grid.shaped s.params s.fb

theorem State.Inv.sound {s : State} (h : s.Inv) : s.Sound := ⟨h.params, h.sp, h.depth, h.entries, h.mem, h.fb⟩

/-- Soundness rests on five fields. -/
theorem State.Sound.congr {s t : State} (h : s.Sound) (hparams : t.params = s.params) (hsp : t.sp = s.sp)
    (hstack : t.stack = s.stack) (hmem : t.mem = s.mem) (hfb : t.fb = s.fb) : t.Sound := by
  obtain ⟨params, sp, depth, entries, mem, fb⟩ := h
  constructor <;> simp only [hparams, hsp, hstack, hmem, hfb] <;> assumption

/-- While a run is in progress there is no stop record (R33, R121). -/
theorem State.Inv.no_record {s : State} (h : s.Inv) (hrs : s.rs ≠ .stopped) : s.stopReason = .none ∧ s.cause = none := by
  have hreason := h.record hrs
  refine ⟨hreason, Option.not_isSome_iff_eq_none.mp fun hc => ?_⟩
  cases hreason.symm.trans (h.cause.mp hc)

theorem inv_of_running {s : State} (h : s.Sound) (hpc : s.pc.toNat ≤ 0x10FE) (hrs : s.rs = .running)
    (hreason : s.stopReason = .none) (hcause : s.cause = none) : s.Inv where
  __ := h
  pc := hpc
  cause := by simp [hreason, hcause]
  record := fun _ => hreason
  waiting := fun hw => by cases hrs.symm.trans hw

theorem inv_of_stopped {s : State} (h : s.Sound) (hpc : s.pc.toNat ≤ 0x10FE) (hrs : s.rs = .stopped)
    (hcause : s.cause.isSome = true ↔ s.stopReason = .fault) : s.Inv where
  __ := h
  pc := hpc
  cause := hcause
  record := fun hr => absurd hrs hr
  waiting := fun hw => by cases hrs.symm.trans hw

/-- A run without a stop record that ends by halt or quit leaves a state that meets the invariant. -/
theorem inv_stop {s : State} {r : StopReason} (h : s.Sound) (hpc : s.pc.toNat ≤ 0x10FE) (hr : r ≠ .fault)
    (hcause : s.cause = none) : (stop r s).Inv :=
  inv_of_stopped (h.congr rfl rfl rfl rfl rfl) hpc rfl (by simp [hr, hcause])

/-! #### The instructions -/

section
variable {i : Instr} {s t : State}

/-- Every instruction keeps the canonical form of Memory: those that store do so inside Memory, by D16. -/
theorem exec_mem_wf (h : exec i s = .next t) (hm : Memory.wf s.params s.mem) : Memory.wf s.params t.mem := by
  cases i with
  | bcd x =>
    obtain ⟨hin, rfl⟩ | ⟨f, rfl⟩ := exec_bcd_cases h
    · exact Memory.writeList_wf _ ((ea_lt_memSize_iff s 2).mp hin) hm
    · exact hm
  | stor x =>
    obtain ⟨hin, rfl⟩ | ⟨f, rfl⟩ := exec_stor_cases h
    · refine Memory.writeList_wf _ ?_ hm
      rw [readBlock_length]
      exact (ea_lt_memSize_iff s _).mp hin
    · exact hm
  | ret => obtain ⟨-, rfl⟩ | ⟨f, rfl⟩ := exec_ret_cases h <;> exact hm
  | call nnn => obtain ⟨-, rfl⟩ | ⟨f, rfl⟩ := exec_call_cases h <;> exact hm
  | draw x y n => obtain ⟨-, rfl⟩ | ⟨f, rfl⟩ := exec_draw_cases h <;> exact hm
  | read x => obtain ⟨-, rfl⟩ | ⟨f, rfl⟩ := exec_read_cases h <;> exact hm
  | se | sne | seReg | sneReg =>
    rw [next_of_eq h rfl, skipIf_mem]
    exact hm
  | skp x | sknp x =>
    rw [next_of_eq h rfl, skipIf_mem]
    obtain ⟨-, hq⟩ | ⟨-, hq⟩ := queryKey_cases s (keyOf (readV s x)) <;> rw [hq] <;> exact hm
  | _ =>
    rw [next_of_eq h rfl]
    exact hm

/-- Every instruction keeps the call stack in its bounds: CALL pushes the address of the next instruction, RET leaves the
array as it is. -/
theorem exec_stack_bounds (h : exec i s = .next t) (hs : s.Sound) (hpc : s.pc.toNat ≤ 0x1000) :
    t.sp ≤ s.params.stackDepth ∧ t.stack.length = s.params.stackDepth ∧ ∀ a ∈ t.stack, a.toNat ≤ 0x1000 := by
  cases i with
  | ret =>
    obtain ⟨-, rfl⟩ | ⟨f, rfl⟩ := exec_ret_cases h
    · exact ⟨(Nat.sub_le _ _).trans hs.sp, hs.depth, hs.entries⟩
    · exact ⟨hs.sp, hs.depth, hs.entries⟩
  | call nnn =>
    obtain ⟨hroom, rfl⟩ | ⟨f, rfl⟩ := exec_call_cases h
    · refine ⟨Nat.lt_of_le_of_ne hs.sp hroom, (List.length_set ..).trans hs.depth, fun a ha => ?_⟩
      obtain ha | rfl := List.mem_or_eq_of_mem_set ha
      · exact hs.entries a ha
      · exact hpc
    · exact ⟨hs.sp, hs.depth, hs.entries⟩
  | _ =>
    have hsp : t.sp = s.sp := exec_keeps (q := .sp) h (by simp [writtenParts]) (by simp)
    have hstack : t.stack = s.stack := exec_keeps (q := .stack) h (by simp [writtenParts]) (by simp)
    rw [hsp, hstack]
    exact ⟨hs.sp, hs.depth, hs.entries⟩

theorem exec_fb_shaped (h : exec i s = .next t) (hs : Grid.shaped s.params s.fb) : Grid.shaped s.params t.fb := by
  cases i with
  | cls =>
    rw [next_of_eq h (exec_cls s)]
    exact blankGrid_shaped s.params
  | draw x y n =>
    obtain ⟨-, rfl⟩ | ⟨f, rfl⟩ := exec_draw_cases h
    · exact blit_shaped _ hs
    · exact hs
  | _ =>
    have hfb : t.fb = s.fb := exec_keeps (q := .fb) h (by simp [writtenParts]) (by simp)
    rwa [hfb]

theorem exec_sound (h : exec i s = .next t) (hs : s.Sound) (hpc : s.pc.toNat ≤ 0x1000) : t.Sound := by
  have hparams := exec_params h
  obtain ⟨hsp, hdepth, hentries⟩ := exec_stack_bounds h hs hpc
  exact
    { params := hparams ▸ hs.params
      sp := hparams ▸ hsp
      depth := hparams ▸ hdepth
      entries := hentries
      mem := hparams ▸ exec_mem_wf h hs.mem
      fb := hparams ▸ exec_fb_shaped h hs.fb }

theorem skipIf_pc_le (c : Bool) {u : State} (h : u.pc.toNat ≤ 0x1000) : (skipIf c u).pc.toNat ≤ 0x10FE := by
  have hadd : (u.pc + 2).toNat = (u.pc.toNat + 2) % 65536 := BitVec.toNat_add ..
  rw [skipIf_pc]
  split <;> omega

/-- A stack entry, and the 0 read outside the array, are at most 0x1000 (R26). -/
theorem stack_getD_le (h : ∀ a ∈ s.stack, a.toNat ≤ 0x1000) (k : Nat) : (s.stack.getD k 0).toNat ≤ 0x1000 := by
  rw [List.getD_eq_getElem?_getD]
  cases hk : s.stack[k]? with
  | none => simp
  | some a => exact h a (List.mem_of_getElem? hk)

/-- The sum of JMP+V0 is not wrapped (R157, D11): it fits 13 bits. -/
theorem jmpV0_toNat (nnn : Addr) (b : Byte) : (zext16 nnn + b.setWidth 16).toNat = nnn.toNat + b.toNat := by
  have hnnn := nnn.isLt
  have hb := b.isLt
  rw [BitVec.toNat_add, zext16_toNat, BitVec.toNat_setWidth]
  omega

/-- After an instruction executed at a `PC` up to 0x1000 the largest value of `PC` is the largest sum of JMP+V0 (R23). -/
theorem exec_pc_le (h : exec i s = .next t) (hentries : ∀ a ∈ s.stack, a.toNat ≤ 0x1000) (hpc : s.pc.toNat ≤ 0x1000) :
    t.pc.toNat ≤ 0x10FE := by
  cases i with
  | ret =>
    obtain ⟨-, rfl⟩ | ⟨f, rfl⟩ := exec_ret_cases h
    · exact (stack_getD_le hentries _).trans (by omega)
    · exact hpc.trans (by omega)
  | call nnn =>
    obtain ⟨-, rfl⟩ | ⟨f, rfl⟩ := exec_call_cases h
    · rw [State.called, State.setPc_pc, zext16_toNat]
      omega
    · exact hpc.trans (by omega)
  | jmp nnn =>
    rw [next_of_eq h (exec_jmp nnn s), State.setPc_pc, zext16_toNat]
    omega
  | jmpV0 nnn =>
    rw [next_of_eq h (exec_jmpV0 nnn s), State.setPc_pc, jmpV0_toNat]
    omega
  | se | sne | seReg | sneReg =>
    rw [next_of_eq h rfl]
    exact skipIf_pc_le _ hpc
  | skp x | sknp x =>
    rw [next_of_eq h rfl]
    obtain ⟨-, hq⟩ | ⟨-, hq⟩ := queryKey_cases s (keyOf (readV s x)) <;> rw [hq] <;> exact skipIf_pc_le _ hpc
  | _ =>
    have hkept : t.pc = s.pc := exec_keeps (q := .pc) h (by simp [writtenParts]) (by simp)
    rw [hkept]
    omega

/-- Executing the instruction that stands in `IR` in a run leads to a state that meets the invariant. -/
theorem exec_inv (h : exec i s = .next t) (hs : s.Sound) (hrs : s.rs = .running) (hreason : s.stopReason = .none)
    (hcause : s.cause = none) (hpc : s.pc.toNat ≤ 0x1000) (hir : decodeWord s.ir = .ok i) (hiaddr : s.pc = s.iaddr + 2) :
    t.Inv := by
  have hs' := exec_sound h hs hpc
  have hpc' := exec_pc_le h hs.entries hpc
  obtain ⟨hrs', hreason', hcause'⟩ | ⟨⟨x, rfl⟩, -, -, -⟩ | ⟨hrs', hreason', f, hcause'⟩ := exec_runState h
  · exact inv_of_running hs' hpc' (hrs'.trans hrs) (hreason'.trans hreason) (hcause'.trans hcause)
  · rw [next_of_eq h (exec_ldVxK x s)] at hs' hpc' ⊢
    exact
      { hs' with
        pc := hpc'
        cause := by simp [hreason, hcause]
        record := fun _ => hreason
        waiting := fun _ => ⟨⟨x, hir⟩, hiaddr⟩ }
  · exact inv_of_stopped hs' hpc' hrs' (by simp [hreason', hcause'])

end

/-! #### A cycle, a key-wait step, a command of the host -/

theorem State.Sound.tick {s : State} (h : s.Sound) : (tick s).Sound :=
  h.congr (tick_params s) (tick_sp s) (tick_stack s) (tick_mem s) (tick_fb s)

section prepared
variable (s : State) (l : List KeyEvent)
theorem prepared_params : (s.prepared l).params = s.params := by simp [drawPoll_eq]
theorem prepared_sp : (s.prepared l).sp = s.sp := by simp [drawPoll_eq]
theorem prepared_stack : (s.prepared l).stack = s.stack := by simp [drawPoll_eq]
theorem prepared_mem : (s.prepared l).mem = s.mem := by simp [drawPoll_eq]
theorem prepared_fb : (s.prepared l).fb = s.fb := by simp [drawPoll_eq]
theorem prepared_dt : (s.prepared l).dt = (tick s).dt := by simp [drawPoll_eq]
theorem prepared_st : (s.prepared l).st = (tick s).st := by simp [drawPoll_eq]
theorem prepared_pc : (s.prepared l).pc = s.pc + 2 := by simp [drawPoll_eq]
theorem prepared_ir : (s.prepared l).ir = s.wordAtPc := advance_ir ..
theorem prepared_iaddr : (s.prepared l).iaddr = s.pc := by simp [drawPoll_eq]
theorem prepared_rs : (s.prepared l).rs = s.rs := by simp [drawPoll_eq]
theorem prepared_stopReason : (s.prepared l).stopReason = s.stopReason := by simp [drawPoll_eq]
theorem prepared_cause : (s.prepared l).cause = s.cause := by simp [drawPoll_eq]
end prepared

theorem State.Sound.prepared {s : State} (h : s.Sound) (l : List KeyEvent) : (s.prepared l).Sound :=
  h.congr (prepared_params s l) (prepared_sp s l) (prepared_stack s l) (prepared_mem s l) (prepared_fb s l)

/-- The advance does not wrap where a fetch is possible (R127). -/
theorem prepared_pc_toNat {s : State} (l : List KeyEvent) (h : s.pc.toNat ≤ 0xFFE) :
    (s.prepared l).pc.toNat = s.pc.toNat + 2 := by
  have hadd : (s.pc + 2).toNat = (s.pc.toNat + 2) % 65536 := BitVec.toNat_add ..
  rw [prepared_pc]
  omega

theorem cycle_inv {s t : State} (h : s.Inv) (hrs : s.rs = .running) (ht : cycle s = .next t) : t.Inv := by
  obtain ⟨hreason, hcause⟩ := h.no_record (by simp [hrs])
  obtain ⟨-, hc⟩ | ⟨-, -, hc⟩ | ⟨hhalt, l, -, hc⟩ := cycle_cases s
  · rw [next_of_eq ht hc]
    exact inv_stop h.sound h.pc (by decide) hcause
  · rw [next_of_eq ht hc]
    exact inv_stop (h.sound.tick.congr rfl rfl rfl rfl rfl) ((congrArg _ (tick_pc s)).trans_le h.pc) (by decide)
      ((tick_cause s).trans hcause)
  · have hpc : (s.prepared l).pc.toNat ≤ 0x1000 := by
      have := pcHalts_eq_false.mp hhalt
      rw [prepared_pc_toNat l this]
      omega
    have hsound := h.sound.prepared l
    obtain ⟨e, -, hc⟩ | ⟨i, hi, hc⟩ := hc
    · rw [eq_of_raise (hc.symm.trans ht)]
      exact inv_of_stopped (hsound.congr rfl rfl rfl rfl rfl) (hpc.trans (by omega)) rfl (by simp [State.afterFault])
    · exact exec_inv (hc.symm.trans ht) hsound ((prepared_rs s l).trans hrs) ((prepared_stopReason s l).trans hreason)
        ((prepared_cause s l).trans hcause) hpc ((congrArg _ (prepared_ir s l)).trans hi)
        (by rw [prepared_pc, prepared_iaddr])

theorem waitStep_inv {s t : State} (h : s.Inv) (hrs : s.rs = .waitk) (ht : waitStep s = .next t) : t.Inv := by
  obtain ⟨hreason, hcause⟩ := h.no_record (by simp [hrs])
  have hsound : (drawWaitEvent s).2.Sound := h.sound.congr rfl rfl rfl rfl rfl
  obtain ⟨-, hw⟩ | ⟨k, -, hw⟩ | ⟨-, hw⟩ := waitStep_cases s
  · rw [next_of_eq ht hw]
    exact { hsound with pc := h.pc, cause := h.cause, record := h.record, waiting := h.waiting }
  · rw [next_of_eq ht hw]
    exact inv_of_running (hsound.congr rfl rfl rfl rfl rfl) h.pc rfl hreason hcause
  · rw [next_of_eq ht hw]
    exact inv_stop hsound h.pc (by decide) hcause

/-- A load that fits writes its bytes and answers ok (R70). -/
theorem hostLoad_in {offset : Nat} {bytes : List Byte} {s : State} (h : offset + bytes.length ≤ 4096) :
    hostLoad offset bytes s = reply .ok (s.setMem (Memory.writeList s.params s.mem offset bytes)) := by
  have hin : offset + bytes.length ≤ Config.memSize := h
  simp only [hostLoad, storeBytes_eq_some.mpr ⟨hin, rfl⟩]

/-- A load that does not fit writes nothing and answers with the error (R70). -/
theorem hostLoad_out {offset : Nat} {bytes : List Byte} {s : State} (h : 4096 < offset + bytes.length) :
    hostLoad offset bytes s = reply .outOfRange s := by
  have hout : Config.memSize < offset + bytes.length := h
  simp only [hostLoad, storeBytes_eq_none.mpr hout]

theorem hostReset_sound {s : State} (h : s.Sound) : (hostReset s).Sound where
  params := h.params
  sp := Nat.zero_le _
  depth := List.length_replicate
  entries := fun a ha => by rw [List.eq_of_mem_replicate ha]; decide
  mem := Memory.wf_nil s.params
  fb := blankGrid_shaped s.params

theorem hostCommand_inv {c : HostCmd} {s : State} (h : s.Inv) (hrs : s.rs = .stopped) : (hostCommand c s).Inv := by
  cases c with
  | reset => exact inv_of_stopped (hostReset_sound h.sound) (Nat.zero_le _) rfl (by simp [hostCommand, hostReset])
  | load offset bytes =>
    rw [hostCommand]
    obtain hout | hin := Nat.lt_or_ge 4096 (offset + bytes.length)
    · rw [hostLoad_out hout]
      exact inv_of_stopped (h.sound.congr rfl rfl rfl rfl rfl) h.pc hrs h.cause
    · rw [hostLoad_in hin]
      exact inv_of_stopped { h.sound with mem := Memory.writeList_wf bytes hin h.mem } h.pc hrs h.cause
  | run entry =>
    refine inv_of_running (h.sound.congr rfl rfl rfl rfl rfl) ?_ rfl rfl rfl
    rw [hostCommand, startRun_pc, zext16_toNat]
    omega

/-- The state in which the oldest of the waiting commands is performed: it is off the list (R261). -/
def State.commandTaken (s : State) (rest : List HostCmd) : State := s.setEnv { s.env with host := rest }

/-- Everything a step of a stopped machine can be (R131, R261). -/
theorem hostStep_cases (s : State) :
    (s.env.host = [] ∧ hostStep s = .next s) ∨
    (∃ c rest, s.env.host = c :: rest ∧ hostStep s = .next (hostCommand c (s.commandTaken rest))) := by
  unfold hostStep
  cases h : s.env.host with
  | nil => exact .inl ⟨rfl, rfl⟩
  | cons c rest => exact .inr ⟨c, rest, rfl, rfl⟩

theorem hostStep_inv {s t : State} (h : s.Inv) (hrs : s.rs = .stopped) (ht : hostStep s = .next t) : t.Inv := by
  obtain ⟨-, hs⟩ | ⟨c, rest, -, hs⟩ := hostStep_cases s
  · rw [next_of_eq ht hs]
    exact h
  · rw [next_of_eq ht hs]
    exact hostCommand_inv (inv_of_stopped (h.sound.congr rfl rfl rfl rfl rfl) h.pc hrs h.cause) hrs

/-- Settles O43, one lemma for each of the three run states. -/
theorem everyStepKeepsTheInvariant : Obligations.EveryStepKeepsTheInvariant := by
  intro s t h ht
  cases hrs : s.rs with
  | stopped => exact hostStep_inv h hrs ((step_stopped hrs).symm.trans ht)
  | running => exact cycle_inv h hrs ((step_running hrs).symm.trans ht)
  | waitk => exact waitStep_inv h hrs ((step_waitk hrs).symm.trans ht)

/-- Settles O42: every clause computes on the reset state but those over the stack entries, which are all 0, and over the
display, which is blank. -/
theorem resetMeetsTheInvariant : Obligations.ResetMeetsTheInvariant := by
  have hsound : State.reset.Sound :=
    { params := by decide
      sp := Nat.zero_le _
      depth := rfl
      entries := fun a ha => by rw [List.eq_of_mem_replicate ha]; decide
      mem := Memory.wf_nil defaultParams
      fb := blankGrid_shaped defaultParams }
  exact inv_of_stopped hsound (Nat.zero_le _) rfl (by decide)

end Sys2Proof.Machine

/-! ### The cycle (spec/40_cycle_fsm.md) -/

namespace Sys2Proof.Machine

/-! #### The phases before P5 -/

theorem tick_dt_toNat (s : State) :
    (tick s).dt.toNat = if (s.env.timerDue.draw Config.timerDue).1 then s.dt.toNat - 1 else s.dt.toNat := by
  rw [tick_dt]
  split
  · exact countDown_toNat s.dt
  · rfl

theorem tick_st_toNat (s : State) :
    (tick s).st.toNat = if (s.env.timerDue.draw Config.timerDue).1 then s.st.toNat - 1 else s.st.toNat := by
  rw [tick_st]
  split
  · exact countDown_toNat s.st
  · rfl

@[simp] theorem drawPoll_dt (s : State) : (drawPoll s).2.dt = s.dt := rfl
@[simp] theorem drawPoll_st (s : State) : (drawPoll s).2.st = s.st := rfl
@[simp] theorem drawPoll_cause (s : State) : (drawPoll s).2.cause = s.cause := rfl

theorem prepared_dt_toNat (s : State) (l : List KeyEvent) :
    (s.prepared l).dt.toNat = if (s.env.timerDue.draw Config.timerDue).1 then s.dt.toNat - 1 else s.dt.toNat := by
  rw [prepared_dt, tick_dt_toNat]

theorem prepared_st_toNat (s : State) (l : List KeyEvent) :
    (s.prepared l).st.toNat = if (s.env.timerDue.draw Config.timerDue).1 then s.st.toNat - 1 else s.st.toNat := by
  rw [prepared_st, tick_st_toNat]

theorem prepared_keys (s : State) (l : List KeyEvent) (k : Key) :
    (s.prepared l).keys.getLsbD k.val = (s.keys.getLsbD k.val || l.any fun e => e.pressed && decide (e.key = k)) := by
  rw [advance_keys, getLsbD_latch, drawPoll_eq, State.setEnv_keys, tick_keys]

theorem prepared_timerDue (s : State) (l : List KeyEvent) :
    (s.prepared l).env.timerDue = (s.env.timerDue.draw Config.timerDue).2 := by
  simp [drawPoll_eq, tick_env]

theorem prepared_poll (s : State) (l : List KeyEvent) :
    (s.prepared l).env.poll = (s.env.poll.draw Config.poll).2 := by
  simp [drawPoll_eq, tick_env]

section
variable {s : State} {l : List KeyEvent}

theorem step_halt (hrs : s.rs = .running) (hpc : 0xFFE < s.pc.toNat) : step s = .next (stop .halt s) := by
  have hhalt : pcHalts s = true := decide_eq_true hpc
  rw [step_running hrs, cycle_halt hhalt]

theorem step_quit (hrs : s.rs = .running) (hpc : s.pc.toNat ≤ 0xFFE) (hq : (s.env.poll.draw Config.poll).1 = .quit) :
    step s = .next (stop .quit (drawPoll (tick s)).2) := by
  rw [step_running hrs, cycle_quit (pcHalts_eq_false.mpr hpc) hq]

theorem step_decodeExecute (hrs : s.rs = .running) (hpc : s.pc.toNat ≤ 0xFFE)
    (hl : (s.env.poll.draw Config.poll).1 = .events l) : step s = decodeExecute s.wordAtPc (s.prepared l) := by
  rw [step_running hrs, cycle_events (pcHalts_eq_false.mpr hpc) hl]

theorem step_exec {i : Instr} (hrs : s.rs = .running) (hpc : s.pc.toNat ≤ 0xFFE)
    (hl : (s.env.poll.draw Config.poll).1 = .events l) (hi : decodeWord s.wordAtPc = .ok i) :
    step s = exec i (s.prepared l) := by
  rw [step_decodeExecute hrs hpc hl, decodeExecute, hi]

theorem step_illegal {e : DecodeError} (hrs : s.rs = .running) (hpc : s.pc.toNat ≤ 0xFFE)
    (hl : (s.env.poll.draw Config.poll).1 = .events l) (he : decodeWord s.wordAtPc = .error e) :
    step s = raise .illegalOpcode (s.prepared l) := by
  rw [step_decodeExecute hrs hpc hl, decodeExecute, he]

end

/-- Settles O6: the step is the execution from the prepared state, whose parts are said one by one above. -/
theorem stepRunsTheDecodedInstruction : Obligations.StepRunsTheDecodedInstruction :=
  fun s l _ hrs hpc hl hi =>
    ⟨s.prepared l, step_exec hrs hpc hl hi, prepared_pc_toNat l hpc, prepared_ir s l, prepared_iaddr s l,
      prepared_dt_toNat s l, prepared_st_toNat s l, prepared_keys s l, prepared_timerDue s l, prepared_poll s l,
      frame_prepared s l⟩

/-- Settles O7: the fault entry is made on the prepared state and writes the stop record and the run state alone. -/
theorem illegalWordStopsTheRun : Obligations.IllegalWordStopsTheRun := by
  intro s l e hrs hpc hl he
  obtain ⟨t, ht, hcause, hreason, hrs', hframe⟩ := raise_entry .illegalOpcode (s.prepared l)
  have kept (q : Part) (hq : q ∉ [Part.record, .rs]) : q.kept (s.prepared l) t := hframe.2.1 q hq
  obtain ⟨hir, hiaddr⟩ := kept .fetched (by decide)
  have hpc' : t.pc = (s.prepared l).pc := kept .pc (by decide)
  have hdt : t.dt = (s.prepared l).dt := kept .dt (by decide)
  have hst : t.st = (s.prepared l).st := kept .st (by decide)
  have hkeys : t.keys = (s.prepared l).keys := kept .keys (by decide)
  refine ⟨t, (step_illegal hrs hpc hl he).trans ht, hcause, hreason, hrs', hiaddr.trans (prepared_iaddr s l),
    hir.trans (prepared_ir s l), ?pc, ?dt, ?st, ?keys, ?frame⟩
  case pc => rw [hpc', prepared_pc_toNat l hpc]
  case dt => rw [hdt, prepared_dt_toNat]
  case st => rw [hst, prepared_st_toNat]
  case keys => intro k; rw [hkeys, prepared_keys]
  case frame => exact ((frame_prepared s l).mono (by simp) (by simp)).trans (hframe.mono (by simp) (by simp))

/-- Settles O8: the halt test is the first thing a cycle does. -/
theorem naturalHaltChangesNothingElse : Obligations.NaturalHaltChangesNothingElse :=
  fun s hrs hpc => ⟨_, step_halt hrs hpc, rfl, rfl, rfl, frame_stop .halt s⟩

/-- Settles O9: the quit stops the ticked state, from which one poll has been taken. -/
theorem quitAtRefreshStopsBeforeTheFetch : Obligations.QuitAtRefreshStopsBeforeTheFetch := by
  intro s hrs hpc hq
  refine ⟨_, step_quit hrs hpc hq, rfl, rfl, ?cause, ?dt, ?st, ?frame⟩
  case cause => rw [stop_cause, drawPoll_cause, tick_cause]
  case dt => rw [stop_dt, drawPoll_dt, tick_dt_toNat]
  case st => rw [stop_st, drawPoll_st, tick_st_toNat]
  case frame =>
    have htick : Frame [] [.rs, .record, .dt, .st, .timerDue, .poll] s (tick s) :=
      (frame_tick s).mono (by simp) (by simp)
    have hpoll : Frame [] [.rs, .record, .dt, .st, .timerDue, .poll] (tick s) (drawPoll (tick s)).2 :=
      (frame_drawPoll _).mono (by simp) (by simp)
    exact (htick.trans hpoll).trans ((frame_stop .quit _).mono (by simp) (by simp))

end Sys2Proof.Machine

/-! ### The key wait (R130, R245) -/

namespace Sys2Proof.Machine

section
variable {s : State}

theorem step_wait_nothing (hrs : s.rs = .waitk) (h : (s.env.waitEvent.draw Config.waitEvent).1 = .nothing) :
    step s = .next (drawWaitEvent s).2 := by
  rw [step_waitk hrs, waitStep, drawWaitEvent_eq, h]

theorem step_wait_keyup {k : Key} (hrs : s.rs = .waitk) (h : (s.env.waitEvent.draw Config.waitEvent).1 = .keyup k) :
    step s = .next ((writeV (drawWaitEvent s).2 (fieldX s.ir) (BitVec.ofNat 8 k.val)).setRs .running) := by
  rw [step_waitk hrs, waitStep, drawWaitEvent_eq, h]

theorem step_wait_quit (hrs : s.rs = .waitk) (h : (s.env.waitEvent.draw Config.waitEvent).1 = .quit) :
    step s = .next (stop .quit (drawWaitEvent s).2) := by
  rw [step_waitk hrs, waitStep, drawWaitEvent_eq, h]

end

/-- A key number fits a byte. -/
theorem keyByte_toNat (k : Key) : (BitVec.ofNat 8 k.val).toNat = k.val := by
  rw [BitVec.toNat_ofNat]
  omega

/-- Settles O10, one case for each answer of the input source. -/
theorem keyWaitStepDoesOneOfThreeThings : Obligations.KeyWaitStepDoesOneOfThreeThings := by
  intro s hrs
  refine ⟨?nothing, ?keyup, ?quit⟩
  case nothing => exact fun h => ⟨_, step_wait_nothing hrs h, frame_drawWaitEvent s⟩
  case keyup =>
    intro k h
    refine ⟨_, step_wait_keyup hrs h, rfl, ?_, ?_⟩
    · rw [readV_setRs, readV_writeV_self, keyByte_toNat]
    · have hdraw : Frame [fieldX s.ir] [.rs, .waitEvent] s (drawWaitEvent s).2 :=
        (frame_drawWaitEvent s).mono (by simp) (by simp)
      exact (hdraw.trans ((frame_writeV _ _ _).mono (by simp) (by simp))).trans ((frame_setRs _ _).mono (by simp) (by simp))
  case quit =>
    refine fun h => ⟨_, step_wait_quit hrs h, rfl, rfl, rfl, ?_⟩
    exact Frame.trans ((frame_drawWaitEvent s).mono (by simp) (by simp)) ((frame_stop .quit _).mono (by simp) (by simp))

/-- The word of LD Vx,K carries `x` in bits 11:8 (R94). -/
theorem fieldX_of_ldVxK {w : Word16} {x : Reg} (h : decodeWord w = .ok (.ldVxK x)) : fieldX w = x := by
  rw [← encodeWord_of_decodeWord h]
  exact fieldX_encXNN ..

/-- Settles O11: the cycle leaves the word of LD Vx,K in `IR`, and the key-wait step writes the register `IR[11:8]` names. -/
theorem keyWaitDeliversTheKeyToItsRegister : Obligations.KeyWaitDeliversTheKeyToItsRegister := by
  intro s l x hrs hpc hl hi
  have hstep : step s = .next ((s.prepared l).setRs .waitk) := (step_exec hrs hpc hl hi).trans (exec_ldVxK x _)
  refine ⟨_, hstep, rfl, prepared_pc_toNat l hpc, fun k hk => ?_⟩
  obtain ⟨-, hkeyup, -⟩ := keyWaitStepDoesOneOfThreeThings ((s.prepared l).setRs .waitk) rfl
  have hx : fieldX ((s.prepared l).setRs .waitk).ir = x := (congrArg fieldX (prepared_ir s l)).trans (fieldX_of_ldVxK hi)
  rw [hx] at hkeyup
  exact hkeyup k hk

end Sys2Proof.Machine

/-! ### The host (spec/50_interfaces.md, spec/70_reset_and_hazards.md) -/

namespace Sys2Proof.Machine

/-- A step of a stopped machine takes the oldest waiting command off the list and performs it (R261). -/
theorem step_command {s : State} {c : HostCmd} {rest : List HostCmd} (hrs : s.rs = .stopped)
    (h : s.env.host = c :: rest) : step s = .next (hostCommand c (s.commandTaken rest)) := by
  rw [step_stopped hrs, hostStep, h]
  rfl

theorem frame_commandTaken (s : State) (rest : List HostCmd) : Frame [] [.host] s (s.commandTaken rest) :=
  ⟨fun _ _ => rfl, fun q h => by cases q <;> simp_all [Part.kept, State.commandTaken], rfl⟩

theorem frame_reply (r : LoadReply) (s : State) : Frame [] [.replies] s (reply r s) :=
  ⟨fun _ _ => rfl, fun q h => by cases q <;> simp_all [Part.kept, reply], rfl⟩

/-- Settles O12: a stopped machine does nothing but what the host asks for. -/
theorem stoppedMachineKeepsAllState : Obligations.StoppedMachineKeepsAllState := by
  intro s hrs hhost
  rw [step_stopped hrs, hostStep, hhost]

/-- Settles O13: the step is `startRun` after the command is taken off the list. -/
theorem runStartsAtItsEntry : Obligations.RunStartsAtItsEntry := by
  intro s e rest hrs hhost
  refine ⟨_, step_command hrs hhost, zext16_toNat e, rfl, rfl, rfl, rfl, ?frame⟩
  case frame =>
    exact Frame.trans ((frame_commandTaken s rest).mono (by simp) (by simp)) ((frame_startRun e _).mono (by simp) (by simp))

/-! #### Bytes written in a row -/

theorem byte_writeList_in (s : State) (a : Nat) (bs : List Byte) {k : Nat} (h : k < bs.length) :
    (s.setMem (Memory.writeList s.params s.mem a bs)).byte (a + k) = bs[k] := by
  rw [byte_setMem, Memory.read_writeList_in _ _ _ _ h]

theorem memKeptOutside_writeList (s : State) (a : Nat) (bs : List Byte) :
    MemKeptOutside a bs.length s (s.setMem (Memory.writeList s.params s.mem a bs)) := by
  intro k h
  rw [byte_setMem, Memory.read_writeList_out _ _ _ _ h, State.byte]

theorem step_load_in {s : State} {offset : Nat} {bytes : List Byte} {rest : List HostCmd} (hrs : s.rs = .stopped)
    (h : s.env.host = .load offset bytes :: rest) (hin : offset + bytes.length ≤ 4096) :
    step s = .next (reply .ok ((s.commandTaken rest).setMem (Memory.writeList s.params s.mem offset bytes))) :=
  (step_command hrs h).trans (congrArg _ (hostLoad_in hin))

theorem step_load_out {s : State} {offset : Nat} {bytes : List Byte} {rest : List HostCmd} (hrs : s.rs = .stopped)
    (h : s.env.host = .load offset bytes :: rest) (hout : 4096 < offset + bytes.length) :
    step s = .next (reply .outOfRange (s.commandTaken rest)) :=
  (step_command hrs h).trans (congrArg _ (hostLoad_out hout))

/-- Settles O14: the range is checked before the first byte is written. -/
theorem loadCopiesAllBytesOrNone : Obligations.LoadCopiesAllBytesOrNone := by
  intro s offset bytes rest hrs hhost
  have htaken := frame_commandTaken s rest
  obtain hout | hin := Nat.lt_or_ge 4096 (offset + bytes.length)
  · refine ⟨_, step_load_out hrs hhost hout, rfl,
      fun hin => absurd hin (Nat.not_le.mpr hout), fun _ => ⟨rfl, ?_⟩⟩
    exact Frame.trans (htaken.mono (by simp) (by simp)) ((frame_reply _ _).mono (by simp) (by simp))
  · refine ⟨_, step_load_in hrs hhost hin, rfl, fun _ => ⟨rfl, ?bytes, ?outside, ?frame⟩,
      fun hout => absurd hin (Nat.not_le.mpr hout)⟩
    case bytes => exact fun k hk => byte_writeList_in s offset bytes hk
    case outside => exact memKeptOutside_writeList s offset bytes
    case frame =>
      have hwritten := (htaken.mono (rs' := []) (ps' := [.mem, .host, .replies]) (by simp) (by simp)).trans
        ((frame_setMem _ (Memory.writeList s.params s.mem offset bytes)).mono (by simp) (by simp))
      exact hwritten.trans ((frame_reply .ok _).mono (by simp) (by simp))

/-! #### reset -/

/-- Memory right after a reset is zero outside the glyph table (R320). -/
theorem resetByte_outside {p : Params} (hp : p.wellFormed = true) {a : Nat} (h : a < p.glyphBase ∨ p.glyphBase + 80 ≤ a) :
    resetByte p a = 0 := by
  have hlen : p.glyphRom.length = 80 := by
    simp only [Params.wellFormed, Bool.and_eq_true, decide_eq_true_eq] at hp
    exact hp.2
  unfold resetByte
  split
  · rw [List.getD_eq_default]
    omega
  · rfl

theorem resetByte_glyph (p : Params) {k : Nat} (h : k < p.glyphRom.length) :
    resetByte p (p.glyphBase + k) = p.glyphRom[k] := by
  rw [resetByte, if_pos (Nat.le_add_right _ _), Nat.add_sub_cancel_left, List.getD_eq_getElem _ _ h]

theorem readV_hostReset (s : State) (r : Reg) : readV (hostReset s) r = 0 := by
  simp [hostReset, readV]

theorem frame_hostReset (s : State) : Frame (List.finRange 16)
    [.i, .pc, .sp, .stack, .mem, .fb, .dt, .st, .keys, .rs, .record, .fetched, .presented] s (hostReset s) :=
  ⟨fun r hr => absurd (List.mem_finRange r) hr, fun q hq => by cases q <;> simp_all [Part.kept, hostReset], rfl⟩

/-- Settles O15: `hostReset` writes every piece; Memory with no cell listed reads as the glyph table and zeros. -/
theorem resetPutsEveryPieceAtItsValue : Obligations.ResetPutsEveryPieceAtItsValue := by
  intro s rest hrs hhost hp
  refine ⟨_, step_command hrs hhost, readV_hostReset _, rfl, rfl, rfl, List.length_replicate, ?entries, ?zeros, ?glyphs,
    blankGrid_shaped s.params, cell_blankGrid s.params, rfl, rfl, rfl, rfl, rfl, rfl, rfl, rfl, rfl, rfl, ?frame⟩
  case entries => exact fun a ha => List.eq_of_mem_replicate ha
  case zeros => exact fun a ha => resetByte_outside hp ha
  case glyphs => exact fun k hk => resetByte_glyph s.params hk
  case frame =>
    exact Frame.trans ((frame_commandTaken s rest).mono (by simp) (by simp))
      ((frame_hostReset _).mono (List.Subset.refl _) (by simp))

/-! #### The boot sequence -/

/-- A run of the machine is its first step and then the run of the rest. -/
theorem coreRun_succ {k : Nat} {s t : State} (h : step s = .next t) :
    Host.Core.run Sys2Proof.core (k + 1) s = Host.Core.run Sys2Proof.core k t := by
  have hstep : Sys2Proof.core.step s = .next t := h
  simp only [Host.Core.run, hstep]

/-- Settles O16: the three commands are performed one after the other, and each leaves the rest of the list waiting. -/
theorem bootSequenceReachesTheEntry : Obligations.BootSequenceReachesTheEntry := by
  intro s offset bytes e rest hrs hhost hin
  have hreset := step_command hrs hhost
  have hload := step_load_in (s := hostReset (s.commandTaken (.load offset bytes :: .run e :: rest))) rfl rfl hin
  have hrun {u : State} (hrs : u.rs = .stopped) (hhost : u.env.host = .run e :: rest) :
      Host.Core.run Sys2Proof.core 1 u = .next (startRun e (u.commandTaken rest)) := coreRun_succ (step_command hrs hhost)
  refine ⟨_, (coreRun_succ hreset).trans ((coreRun_succ hload).trans (hrun rfl rfl)), rfl, zext16_toNat e, rfl,
    ?registers, ?image, rfl, rfl⟩
  case registers => exact readV_hostReset s
  case image => exact fun k hk => byte_writeList_in (hostReset s) offset bytes hk

end Sys2Proof.Machine

/-! ### The run state and the timers over a step (R121, R246) -/

namespace Sys2Proof.Machine

theorem hostLoad_rs (offset : Nat) (bytes : List Byte) (s : State) : (hostLoad offset bytes s).rs = s.rs := by
  obtain hout | hin := Nat.lt_or_ge 4096 (offset + bytes.length)
  · rw [hostLoad_out hout]
    rfl
  · rw [hostLoad_in hin]
    rfl

/-- Settles O45: the cases of a step in each run state; within a cycle the instruction can only go on, wait or fault. -/
theorem runStateMovesOnlyAlongItsTable : Obligations.RunStateMovesOnlyAlongItsTable := by
  intro s t h
  refine ⟨?stopped, ?running, ?waitk⟩
  case stopped =>
    intro hrs
    obtain ⟨-, hs⟩ | ⟨c, rest, hhost, hs⟩ := hostStep_cases s
    all_goals rw [next_of_eq ((step_stopped hrs).symm.trans h) hs]
    · exact .inl hrs
    · cases c with
      | reset => exact .inl rfl
      | load offset bytes => exact .inl ((hostLoad_rs offset bytes _).trans hrs)
      | run e => exact .inr ⟨rfl, rfl, rfl, e, rest, hhost, rfl⟩
  case running =>
    intro hrs
    have hcycle := (step_running hrs).symm.trans h
    obtain ⟨hhalt, hc⟩ | ⟨-, hq, hc⟩ | ⟨-, l, -, ⟨e, -, hc⟩ | ⟨i, hi, hc⟩⟩ := cycle_cases s
    · rw [next_of_eq hcycle hc]
      exact .inr (.inr (.inl ⟨rfl, rfl, rfl, of_decide_eq_true hhalt⟩))
    · rw [next_of_eq hcycle hc]
      have hcause : (stop .quit (drawPoll (tick s)).2).cause = s.cause := by rw [stop_cause, drawPoll_cause, tick_cause]
      exact .inr (.inr (.inr (.inl ⟨rfl, rfl, hcause, hq⟩)))
    · rw [eq_of_raise (hc.symm.trans hcycle)]
      exact .inr (.inr (.inr (.inr ⟨rfl, rfl, _, rfl⟩)))
    · have hexec := exec_runState (hc.symm.trans hcycle)
      rw [prepared_rs, prepared_stopReason, prepared_cause, hrs] at hexec
      obtain hon | ⟨⟨x, rfl⟩, hwait⟩ | hfault := hexec
      · exact .inl hon
      · obtain ⟨hrs', hreason, hcause⟩ := hwait
        exact .inr (.inl ⟨hrs', hreason, hcause, x, hi⟩)
      · exact .inr (.inr (.inr (.inr hfault)))
  case waitk =>
    intro hrs
    obtain ⟨he, hw⟩ | ⟨k, he, hw⟩ | ⟨he, hw⟩ := waitStep_cases s
    all_goals rw [next_of_eq ((step_waitk hrs).symm.trans h) hw]
    · exact .inl ⟨hrs, he⟩
    · exact .inr (.inl ⟨rfl, k, he⟩)
    · exact .inr (.inr ⟨rfl, rfl, he⟩)

/-- A timer over a cycle: set by the instruction, or kept, or as the tick left it. -/
theorem cycle_timers {s t : State} (h : cycle s = .next t) :
    ((∃ x, decodeWord t.ir = .ok (.ldDtVx x)) ∨ t.dt = s.dt ∨ t.dt = (tick s).dt) ∧
    ((∃ x, decodeWord t.ir = .ok (.ldStVx x)) ∨ t.st = s.st ∨ t.st = (tick s).st) := by
  obtain ⟨-, hc⟩ | ⟨-, -, hc⟩ | ⟨-, l, -, ⟨e, -, hc⟩ | ⟨i, hi, hc⟩⟩ := cycle_cases s
  · rw [next_of_eq h hc]
    exact ⟨.inr (.inl rfl), .inr (.inl rfl)⟩
  · rw [next_of_eq h hc, stop_dt, drawPoll_dt, stop_st, drawPoll_st]
    exact ⟨.inr (.inr rfl), .inr (.inr rfl)⟩
  · rw [eq_of_raise (hc.symm.trans h)]
    exact ⟨.inr (.inr (prepared_dt s l)), .inr (.inr (prepared_st s l))⟩
  · have hexec := hc.symm.trans h
    obtain ⟨hir, -⟩ := exec_keeps (q := .fetched) hexec (fetched_not_written i) (by decide)
    have hword : decodeWord t.ir = .ok i := by rw [hir, prepared_ir, hi]
    constructor
    · by_cases hdt : Part.dt ∈ writtenParts i
      · obtain ⟨x, rfl⟩ := dt_written hdt
        exact .inl ⟨x, hword⟩
      · exact .inr (.inr ((exec_keeps (q := .dt) hexec hdt (by decide)).trans (prepared_dt s l)))
    · by_cases hst : Part.st ∈ writtenParts i
      · obtain ⟨x, rfl⟩ := st_written hst
        exact .inl ⟨x, hword⟩
      · exact .inr (.inr ((exec_keeps (q := .st) hexec hst (by decide)).trans (prepared_st s l)))

/-- A value that is the old one, or the one a tick left, is the old one or one less under a strobe (R124). -/
theorem timer_falls {c : Bool} {old new ticked : Byte} (h : new = old ∨ new = ticked)
    (ht : ticked.toNat = if c then old.toNat - 1 else old.toNat) :
    new.toNat = old.toNat ∨ (c = true ∧ new.toNat = old.toNat - 1) := by
  obtain rfl | rfl := h
  · exact .inl rfl
  · cases c
    · exact .inl ht
    · exact .inr ⟨rfl, ht⟩

/-- Settles O48: a key-wait step keeps both timers, and in a cycle what does not set a timer leaves it as the tick did. -/
theorem timersOnlyFallBetweenSets : Obligations.TimersOnlyFallBetweenSets := by
  intro s t h
  refine ⟨?waitk, ?running⟩
  case waitk =>
    intro hrs
    obtain ⟨-, hw⟩ | ⟨k, -, hw⟩ | ⟨-, hw⟩ := waitStep_cases s
    all_goals
      rw [next_of_eq ((step_waitk hrs).symm.trans h) hw]
      exact ⟨rfl, rfl⟩
  case running =>
    intro hrs
    obtain ⟨hdt, hst⟩ := cycle_timers ((step_running hrs).symm.trans h)
    exact ⟨hdt.imp_right fun k => timer_falls k (tick_dt_toNat s), hst.imp_right fun k => timer_falls k (tick_st_toNat s)⟩

end Sys2Proof.Machine

/-! ### The call stack and JMP+V0 (spec/41_flow.md) -/

namespace Sys2Proof.Machine

/-- Settles O18: JMP+V0 is one write of `PC`, of a sum that fits 13 bits. -/
theorem jumpPlusV0IsNotWrapped : Obligations.JumpPlusV0IsNotWrapped :=
  fun nnn s => ⟨_, exec_jmpV0 nnn s, jmpV0_toNat nnn _, frame_setPc s _⟩

/-- An instruction that raises a fault answers that fault's entry. -/
theorem faultEntry_of_raise {i : Instr} {f : Fault} {s : State} (h : exec i s = raise f s) :
    ∃ t, exec i s = .next t ∧ FaultEntry f s t := by
  rw [h]
  exact raise_entry f s

/-- Settles O19: the two cases of the push. -/
theorem callPushesTheReturnAddressOrOverflows : Obligations.CallPushesTheReturnAddressOrOverflows := by
  intro nnn s hdepth
  refine ⟨?room, fun hfull => faultEntry_of_raise (exec_call_full nnn hfull)⟩
  case room =>
    intro hroom
    refine ⟨_, exec_call_room nnn (Nat.ne_of_lt hroom), zext16_toNat nnn, rfl, ?pushed, ?others, frame_called s nnn⟩
    case pushed => exact List.getElem?_set_self (hdepth ▸ hroom)
    case others => exact fun k hk => List.getElem?_set_ne hk.symm

/-- Settles O20: the two cases of the pop. -/
theorem returnPopsIntoPcOrUnderflows : Obligations.ReturnPopsIntoPcOrUnderflows := by
  intro s
  refine ⟨?live, fun hempty => faultEntry_of_raise (exec_ret_empty hempty)⟩
  case live =>
    intro hsp hlen
    refine ⟨_, exec_ret_live hsp, rfl, ?popped, frame_popped s _ _⟩
    case popped =>
      have hlt : s.sp - 1 < s.stack.length := by omega
      rw [State.setPc_pc, List.getD_eq_getElem _ _ hlt, List.getElem?_eq_getElem hlt]

/-- Settles O21: the pop reads the entry the push wrote, for `SP` is one above it. -/
theorem callThenReturnComesBack : Obligations.CallThenReturnComesBack := by
  intro nnn s t u hdepth hroom ht husp hustack
  rw [next_of_eq ht (exec_call_room nnn (Nat.ne_of_lt hroom))] at husp hustack
  have hsp : u.sp = s.sp + 1 := husp
  have hstack : u.stack = s.stack.set s.sp s.pc := hustack
  have hlt : s.sp < (s.stack.set s.sp s.pc).length := by rw [List.length_set]; exact hdepth ▸ hroom
  refine ⟨_, exec_ret_live (by omega), ?pc, ?sp⟩
  case pc => rw [State.setPc_pc, hsp, hstack, Nat.add_sub_cancel, List.getD_eq_getElem _ _ hlt, List.getElem_set_self]
  case sp => rw [State.setPc_sp, State.setSp_sp, hsp, Nat.add_sub_cancel]

end Sys2Proof.Machine

/-! ### Shifts, RND and the flag (spec/42_alu.md) -/

namespace Sys2Proof.Machine

theorem byte_shr_toNat (a : Byte) : (a >>> 1).toNat = a.toNat / 2 := by
  rw [BitVec.toNat_ushiftRight, Nat.shiftRight_eq_div_pow, Nat.pow_one]

theorem byte_shl_toNat (a : Byte) : (a <<< 1).toNat = a.toNat * 2 % 256 := by
  rw [BitVec.toNat_shiftLeft, Nat.shiftLeft_eq, Nat.pow_one]

/-- Settles O27: each shift is a flagged result, of which the `y` field is no part. -/
theorem shiftsMoveOnePlaceAndIgnoreY : Obligations.ShiftsMoveOnePlaceAndIgnoreY := by
  intro x y y' s
  refine ⟨?shr, ?shl⟩
  case shr =>
    obtain ⟨hresult, hflag, hframe⟩ := writeResultFlag_effect s x (byte_shr_toNat (readV s x)) (lowBit_eq (readV s x))
    refine ⟨_, exec_shr x y s, exec_shr x y' s, hresult, ?_, hframe⟩
    rw [hflag]
    split
    case isTrue h => exact h.symm
    case isFalse h => exact (Nat.mod_two_ne_one.mp h).symm
  case shl =>
    obtain ⟨hresult, hflag, hframe⟩ := writeResultFlag_effect s x (byte_shl_toNat (readV s x)) (highBit_eq (readV s x))
    refine ⟨_, exec_shl x y s, exec_shl x y' s, hresult, ?_, hframe⟩
    have hlt := (readV s x).isLt
    rw [hflag]
    split
    · show 1 = _
      omega
    · show 0 = _
      omega

/-- The oldest pending sample is the next one, and the others stay pending. -/
theorem Port.draw_of_pending {α : Type} (free : Nat → α) {p : Port α} {a : α} {rest : List α} (h : p.pending = a :: rest) :
    (p.draw free).1 = a ∧ (p.draw free).2.pending = rest := by
  unfold Port.draw
  rw [h]
  exact ⟨rfl, rfl⟩

/-- Settles O28: RND is one sample of the random port and one write of `V[x]`. -/
theorem randomByteIsMaskedIntoItsRegister : Obligations.RandomByteIsMaskedIntoItsRegister := by
  intro x nn s
  have hbits (k : Nat) : (readV (writeV (drawRand s).2 x ((s.env.rand.draw Config.rand).1 &&& nn)) x).getLsbD k
      = ((s.env.rand.draw Config.rand).1.getLsbD k && nn.getLsbD k) := by
    rw [readV_writeV_self, BitVec.getLsbD_and]
  refine ⟨_, exec_rnd x nn s, hbits, rfl, Port.draw_drawn _ _, fun b rest h => Port.draw_of_pending _ h, ?masked,
    frame_rnd s x _⟩
  case masked =>
    intro k hk
    rw [hbits, hk, Bool.and_false]

theorem flagByte_cases (c : Bool) : flagByte c = 0 ∨ flagByte c = 1 := by
  cases c
  · exact .inl rfl
  · exact .inr rfl

/-- A state whose last write was a flag holds 0 or 1 in `VF` (R21, R22). -/
theorem writeFlag_vf_cases (s : State) (c : Bool) : readV (writeFlag s c) vf = 0 ∨ readV (writeFlag s c) vf = 1 := by
  rw [readV_writeFlag_vf]
  exact flagByte_cases c

/-- Settles O47: the seven flag writers end with the flag, DRAW unless it faults; for the others `VF` is in no row of the
access summary but as a destination. -/
theorem flagRegisterChangesOnlyAsTheTableSays : Obligations.FlagRegisterChangesOnlyAsTheTableSays := by
  intro i s t h
  refine ⟨?flag, ?noFlag⟩
  case flag =>
    intro hwrites
    cases i with
    | addReg | sub | shr | subn | shl | addIVx =>
      rw [next_of_eq h rfl]
      exact (writeFlag_vf_cases _ _).imp_right .inl
    | draw x y n =>
      obtain hout | hin := Nat.lt_or_ge 4096 (ea s n.toNat)
      · obtain ⟨u, hu, hfault⟩ := faultEntry_of_raise (exec_draw_out x y hout)
        rw [next_of_eq h hu]
        exact .inr (.inr hfault)
      · rw [next_of_eq h (exec_draw_in x y hin)]
        exact (writeFlag_vf_cases _ _).imp_right .inl
    | _ => cases hwrites
  case noFlag =>
    intro hwrites hvf
    obtain k | ⟨f, -, -, -, k⟩ := accessSummaryBoundsEveryInstruction i s t h
    · exact k.1 vf (by simp [hwrites, hvf])
    · exact k.1 vf List.not_mem_nil

end Sys2Proof.Machine

/-! ### The address register and Memory (spec/43_index_memory.md) -/

namespace Sys2Proof.Machine

/-- Settles O30: LD I,F is one write of `I`. -/
theorem glyphAddressIsBasePlusFiveTimesTheRegister : Obligations.GlyphAddressIsBasePlusFiveTimesTheRegister :=
  fun x s => ⟨_, exec_ldIF x s, BitVec.toNat_ofNat .., frame_setI s _⟩

theorem byte_storedAtI (s : State) {bs : List Byte} {k : Nat} (h : k < bs.length) :
    (s.storedAtI bs).byte (ea s k) = bs[k] := byte_writeList_in s (ea s 0) bs h

theorem memKeptOutside_storedAtI (s : State) {bs : List Byte} {n : Nat} (h : bs.length = n) :
    MemKeptOutside (ea s 0) n s (s.storedAtI bs) := h ▸ memKeptOutside_writeList s (ea s 0) bs

/-- The three digits fit a byte each. -/
theorem bcdDigits_toNat (b : Byte) :
    (bcdDigits b)[0].toNat = b.toNat / 100 ∧ (bcdDigits b)[1].toNat = b.toNat / 10 % 10 ∧
      (bcdDigits b)[2].toNat = b.toNat % 10 := by
  have hb := b.isLt
  simp only [bcdDigits, List.getElem_cons_zero, List.getElem_cons_succ, BitVec.toNat_ofNat]
  omega

/-- Settles O31: the block stored is the three digits. -/
theorem bcdStoresThreeDecimalDigits : Obligations.BcdStoresThreeDecimalDigits := by
  intro x s hin
  obtain ⟨hundreds, tens, ones⟩ := bcdDigits_toNat (readV s x)
  refine ⟨_, exec_bcd_in hin, ?_, ?_, ?_, memKeptOutside_storedAtI s (bcdDigits_length _), frame_setMem s _⟩
  · rw [byte_storedAtI s (by simp), hundreds]
  · rw [byte_storedAtI s (by simp), tens]
  · rw [byte_storedAtI s (by simp), ones]

theorem byte_stor (s : State) {x r : Reg} (h : r ≤ x) : (s.storedAtI (readBlock s x)).byte (ea s r.val) = readV s r := by
  have hlt : r.val < (readBlock s x).length := by
    rw [readBlock_length]
    exact Nat.lt_succ_of_le h
  rw [byte_storedAtI s hlt, readBlock_getElem]

/-- Settles O32: the block stored is `V[0]` .. `V[x]`. -/
theorem storeBlockCopiesTheRegisters : Obligations.StoreBlockCopiesTheRegisters :=
  fun x s hin =>
    ⟨_, exec_stor_in hin, fun _ => byte_stor s, memKeptOutside_storedAtI s (readBlock_length s x), frame_setMem s _⟩

/-- Settles O33: READ is one write of the register file, and no register above `V[x]` is in it. -/
theorem readBlockLoadsTheRegisters : Obligations.ReadBlockLoadsTheRegisters := by
  intro x s hin
  refine ⟨_, exec_read_in hin, fun r hr => ?_, frame_read s x⟩
  rw [readV_block, if_pos hr]

/-- Settles O34: each of the four checks its whole range first. -/
theorem rangeFaultsHaveNoPartialEffect : Obligations.RangeFaultsHaveNoPartialEffect := by
  intro x y n s
  refine ⟨?bcd, ?stor, ?read, ?draw⟩
  case bcd => exact fun hout => faultEntry_of_raise (exec_bcd_out hout)
  case stor => exact fun hout => faultEntry_of_raise (exec_stor_out hout)
  case read => exact fun hout => faultEntry_of_raise (exec_read_out hout)
  case draw =>
    intro hn hout
    have hout' : 4096 < ea s n.toNat := by
      simp only [ea] at hout ⊢
      omega
    exact faultEntry_of_raise (exec_draw_out x y hout')

/-- Settles O35: the word at `PC` is the two bytes STOR left at `I` and `I + 1`. -/
theorem storedBytesAreFetchedBigEndian : Obligations.StoredBytesAreFetchedBigEndian := by
  intro s t l i ht hin hrs hpc hl hi
  obtain rfl := next_of_eq ht (exec_stor_in hin)
  have haddr : (s.storedAtI (readBlock s 1)).pc.toNat = ea s 0 := (congrArg _ hpc).trans (zext16_toNat s.i)
  have hword : (s.storedAtI (readBlock s 1)).wordAtPc = wordOfBytes (readV s 0) (readV s 1) := by
    have hhi := byte_stor s (x := 1) (r := 0) (by decide)
    have hlo := byte_stor s (x := 1) (r := 1) (by decide)
    rw [State.wordAtPc, haddr]
    exact congrArg₂ wordOfBytes hhi hlo
  have hfetch : (s.storedAtI (readBlock s 1)).pc.toNat ≤ 0xFFE := by
    rw [haddr]
    simp only [ea] at hin ⊢
    omega
  exact ⟨_, step_exec hrs hfetch hl (hword ▸ hi), (prepared_ir _ l).trans hword, (prepared_iaddr _ l).trans hpc⟩

end Sys2Proof.Machine

/-! ### Timers and keys (spec/45_timers_input.md) -/

namespace Sys2Proof.Machine

/-- Settles O39: each of the three is one write. -/
theorem timerMovesCopyTheWholeByte : Obligations.TimerMovesCopyTheWholeByte := by
  intro x s
  refine ⟨?ldVxDt, ?ldDtVx, ?ldStVx⟩
  case ldVxDt => exact ⟨_, exec_ldVxDt x s, readV_writeV_self s x _, frame_writeV s x _⟩
  case ldDtVx => exact ⟨_, exec_ldDtVx x s, rfl, frame_setDt s _⟩
  case ldStVx => exact ⟨_, exec_ldStVx x s, rfl, frame_setSt s _⟩

/-- The key a register selects is the one its low 4 bits name (D20). -/
theorem keyDown_keyOf (s : State) (b : Byte) : keyDown s (keyOf b) = s.keys.getLsbD (b.toNat % 16) := by
  rfl

theorem queryKey_hit {s : State} {k : Key} (h : keyDown s k = true) : queryKey s k = (true, s.setKeys 0) := by
  rw [queryKey, if_pos h]

theorem queryKey_miss {s : State} {k : Key} (h : keyDown s k = false) : queryKey s k = (false, s) := by
  rw [queryKey, h, if_neg Bool.false_ne_true]

/-- Settles O40: a hit and a miss of the one query both skips make. -/
theorem keySkipsConsumeTheLatchOnAHit : Obligations.KeySkipsConsumeTheLatchOnAHit := by
  intro x s
  rw [← keyDown_keyOf s (readV s x)]
  refine ⟨⟨_, exec_skp x s, frame_queryKey_skipIf s _ _, ?skpHit, ?skpMiss⟩,
    ⟨_, exec_sknp x s, frame_queryKey_skipIf s _ _, ?sknpHit, ?sknpMiss⟩⟩
  case skpHit | sknpHit =>
    intro hhit
    rw [queryKey_hit hhit]
    exact ⟨rfl, rfl⟩
  case skpMiss | sknpMiss =>
    intro hmiss
    rw [queryKey_miss hmiss]
    exact ⟨rfl, rfl⟩

/-- Settles O41: LD Vx,K is one write of `RS`. -/
theorem keyWaitOnlySuspends : Obligations.KeyWaitOnlySuspends :=
  fun x s => ⟨_, exec_ldVxK x s, rfl, frame_setRs s .waitk⟩

end Sys2Proof.Machine

/-! ### DRAW (spec/44_display.md) -/

namespace Sys2Proof.Machine

/-! #### What a list of pixels does to one cell -/

/-- The pixel lands on the cell in row `r` and column `c`. -/
abbrev Pixel.on (q : Pixel) (r c : Nat) : Prop := r = q.row ∧ c = q.col

/-- The XOR of the bits of the pixels that land on a cell. -/
def flips (ps : List Pixel) (r c : Nat) : Bool := ps.foldr (fun q v => (decide (q.on r c) && q.bit) ^^ v) false

theorem flips_cons (q : Pixel) (ps : List Pixel) (r c : Nat) :
    flips (q :: ps) r c = ((decide (q.on r c) && q.bit) ^^ flips ps r c) := by
  rfl

/-- A blit changes each cell by the bits that land on it (R224). -/
theorem cell_blit_eq_xor_flips {p : Params} {g : Grid} {ps : List Pixel} (hg : Grid.shaped p g)
    (hps : ∀ q ∈ ps, q.row < p.dispH ∧ q.col < p.dispW) (r c : Nat) :
    Grid.cell (blit g ps) r c = (Grid.cell g r c ^^ flips ps r c) := by
  rw [cell_blit ps hg hps]
  generalize Grid.cell g r c = v
  clear hps
  induction ps generalizing v with
  | nil => exact (Bool.xor_false v).symm
  | cons q ps ih => rw [List.foldl_cons, ih, flips_cons, Bool.xor_assoc]

theorem flips_eq_false {ps : List Pixel} {r c : Nat} (h : ∀ q ∈ ps, ¬q.on r c) : flips ps r c = false := by
  induction ps with
  | nil => rfl
  | cons q ps ih =>
    obtain ⟨hq, hps⟩ := List.forall_mem_cons.mp h
    rw [flips_cons, ih hps, decide_eq_false hq]
    rfl

/-- No two pixels of the list land on one cell. -/
abbrev Apart (ps : List Pixel) : Prop := ps.Pairwise fun q q' => ¬(q.row = q'.row ∧ q.col = q'.col)

/-- Where no two pixels meet, the only one that lands on a cell decides it. -/
theorem flips_eq_bit {ps : List Pixel} (h : Apart ps) {q : Pixel} (hq : q ∈ ps) : flips ps q.row q.col = q.bit := by
  induction ps with
  | nil => cases hq
  | cons q' ps ih =>
    obtain ⟨hq', hps⟩ := List.pairwise_cons.mp h
    rw [flips_cons]
    obtain rfl | hmem := List.mem_cons.mp hq
    · rw [flips_eq_false hq', decide_eq_true ⟨rfl, rfl⟩, Bool.true_and, Bool.xor_false]
    · have hoff : ¬q'.on q.row q.col := fun ⟨hr, hc⟩ => hq' q hmem ⟨hr.symm, hc.symm⟩
      rw [ih hps hmem, decide_eq_false hoff, Bool.false_and, Bool.false_xor]

/-- Two grids of one size with the same cells are the same grid. -/
theorem Grid.eq_of_cells {p : Params} {g g' : Grid} (hg : Grid.shaped p g) (hg' : Grid.shaped p g')
    (h : ∀ r c, Grid.cell g r c = Grid.cell g' r c) : g = g' := by
  obtain ⟨hlen, hrow⟩ := hg
  obtain ⟨hlen', hrow'⟩ := hg'
  refine List.ext_getElem (hlen.trans hlen'.symm) fun r hr hr' => ?_
  have hwidth := hrow _ (List.getElem_mem hr)
  have hwidth' := hrow' _ (List.getElem_mem hr')
  refine List.ext_getElem (hwidth.trans hwidth'.symm) fun c hc hc' => ?_
  rw [← Grid.cell_in hr hc, ← Grid.cell_in hr' hc', h]

/-- A blit undoes itself (R224). -/
theorem blit_blit {p : Params} {g : Grid} {ps : List Pixel} (hg : Grid.shaped p g)
    (hps : ∀ q ∈ ps, q.row < p.dispH ∧ q.col < p.dispW) : blit (blit g ps) ps = g := by
  have hg' := blit_shaped ps hg
  refine Grid.eq_of_cells (blit_shaped ps hg') hg fun r c => ?_
  rw [cell_blit_eq_xor_flips hg' hps, cell_blit_eq_xor_flips hg hps, Bool.xor_assoc, Bool.xor_self, Bool.xor_false]

/-! #### The pixels of a sprite land on different cells -/

/-- Fewer than `m` places in a row, wrapping modulo `m`, are different. -/
theorem add_mod_inj {a i j m : Nat} (hi : i < m) (hj : j < m) (h : (a + i) % m = (a + j) % m) : i = j :=
  Nat.ModEq.eq_of_lt_of_lt (Nat.ModEq.add_left_cancel' a h) hi hj

theorem rowPixels_apart {p : Params} (hw : 8 ≤ p.dispW) (px r : Nat) (b : Byte) : Apart (rowPixels p px r b) := by
  refine List.pairwise_map.mpr (List.pairwise_lt_range.imp_of_mem fun {i j} hi hj hlt ⟨_, hcol⟩ => ?_)
  have hi := List.mem_range.mp hi
  have hj := List.mem_range.mp hj
  exact Nat.ne_of_lt hlt (add_mod_inj (by omega) (by omega) hcol)

/-- On a display at least as wide and as high as the sprite no two of its pixels meet (R223, D19). -/
theorem spritePixels_apart {p : Params} (hw : 8 ≤ p.dispW) (px py : Nat) {row : Nat} {bs : List Byte}
    (hh : row + bs.length ≤ p.dispH) : Apart (spritePixels p px py row bs) := by
  induction bs generalizing row with
  | nil => exact List.Pairwise.nil
  | cons b bs ih =>
    rw [List.length_cons] at hh
    refine List.pairwise_append.mpr ⟨rowPixels_apart hw px _ b, ih (by omega), fun q hq q' hq' ⟨hrow, _⟩ => ?_⟩
    obtain ⟨col, -, rfl⟩ := List.mem_map.mp hq
    obtain ⟨k, hk, col', -, rfl⟩ := mem_spritePixels.mp hq'
    have := add_mod_inj (by omega) (by omega) hrow
    omega

/-! #### The sprite at `I` -/

/-- The bounds D19 puts on the display. -/
theorem display_bounds {p : Params} (h : p.wellFormed = true) : 8 ≤ p.dispW ∧ 15 ≤ p.dispH := by
  simp only [Params.wellFormed, Bool.and_eq_true, decide_eq_true_eq] at h
  omega

/-- The pixel of row `row` and column `col` of the sprite at `I`: its cell wraps, its bit counts from the left (R222, R223). -/
def State.spritePixel (s : State) (x y : Reg) (row col : Nat) : Pixel where
  row := ((readV s y).toNat + row) % s.params.dispH
  col := ((readV s x).toNat + col) % s.params.dispW
  bit := (s.byte (ea s row)).getLsbD (7 - col)

theorem mem_spriteAtI {s : State} {x y : Reg} {n : Nibble} {q : Pixel} :
    q ∈ s.spriteAtI x y n ↔ ∃ row < n.toNat, ∃ col < 8, q = s.spritePixel x y row col := by
  have hbit {row : Nat} (h : row < (Memory.readList s.params s.mem (ea s 0) n.toNat).length) :
      (Memory.readList s.params s.mem (ea s 0) n.toNat)[row] = s.byte (ea s row) := Memory.readList_getElem ..
  simp only [State.spriteAtI, drawPixels, mem_spritePixels, hbit, Memory.readList_length, exists_prop, Nat.zero_add,
    State.spritePixel]

section
variable {s : State} (hp : s.params.wellFormed = true) (x y : Reg) (n : Nibble)
include hp

theorem spriteAtI_on_grid : ∀ q ∈ s.spriteAtI x y n, q.row < s.params.dispH ∧ q.col < s.params.dispW := by
  obtain ⟨hw, hh⟩ := display_bounds hp
  exact spritePixels_on_grid (by omega) (by omega) _ _ _ _

theorem spriteAtI_apart : Apart (s.spriteAtI x y n) := by
  obtain ⟨hw, hh⟩ := display_bounds hp
  refine spritePixels_apart hw _ _ ?_
  rw [Memory.readList_length]
  omega

end

/-- Settles O37: the pixels land on different cells of the display, so each cell is changed by its one pixel or not at all. -/
theorem drawXorsTheSpriteAndReportsCollision : Obligations.DrawXorsTheSpriteAndReportsCollision := by
  intro x y n s hp hg hin
  have hcell := cell_blit_eq_xor_flips hg (spriteAtI_on_grid hp x y n)
  refine ⟨_, exec_draw_in x y hin, ?drawn, ?others, ?collision, ?noCollision, blit_shaped _ hg, rfl, frame_drawn s _ _⟩
  case drawn =>
    intro row col hrow hcol
    have hq : s.spritePixel x y row col ∈ s.spriteAtI x y n := mem_spriteAtI.mpr ⟨row, hrow, col, hcol, rfl⟩
    exact (hcell _ _).trans (congrArg _ (flips_eq_bit (spriteAtI_apart hp x y n) hq))
  case others =>
    intro r c hoff
    have hnone : flips (s.spriteAtI x y n) r c = false := by
      refine flips_eq_false fun q hq => ?_
      obtain ⟨row, hrow, col, hcol, rfl⟩ := mem_spriteAtI.mp hq
      exact hoff row col hrow hcol
    exact (hcell r c).trans ((congrArg _ hnone).trans (Bool.xor_false _))
  case collision =>
    rintro ⟨row, col, hrow, hcol, hbit, hlit⟩
    have hcollides : collides s.fb (s.spriteAtI x y n) = true :=
      collides_eq_true.mpr ⟨_, mem_spriteAtI.mpr ⟨row, hrow, col, hcol, rfl⟩, hbit, hlit⟩
    rw [readV_writeFlag_vf, hcollides]
    rfl
  case noCollision =>
    intro hunlit
    have hcollides : collides s.fb (s.spriteAtI x y n) = false := by
      refine Bool.eq_false_iff.mpr fun h => ?_
      obtain ⟨q, hq, hbit, hlit⟩ := collides_eq_true.mp h
      obtain ⟨row, hrow, col, hcol, rfl⟩ := mem_spriteAtI.mp hq
      exact Bool.false_ne_true ((hunlit row col hrow hcol hbit).symm.trans hlit)
    rw [readV_writeFlag_vf, hcollides]
    rfl

/-- The sprite DRAW works on rests on the parameters, `I`, the bytes of Memory and the two coordinates. -/
theorem spriteAtI_congr {s u : State} {x y : Reg} (n : Nibble) (hparams : u.params = s.params) (hi : u.i = s.i)
    (hbyte : ∀ a, u.byte a = s.byte a) (hx : readV u x = readV s x) (hy : readV u y = readV s y) :
    u.spriteAtI x y n = s.spriteAtI x y n := by
  have hea : ea u 0 = ea s 0 := by rw [ea, hi, ea]
  have hbytes : Memory.readList u.params u.mem (ea u 0) n.toNat = Memory.readList s.params s.mem (ea s 0) n.toNat := by
    refine List.ext_getElem (by simp only [Memory.readList_length]) fun k hk hk' => ?_
    rw [Memory.readList_getElem, Memory.readList_getElem, hea]
    exact hbyte _
  rw [State.spriteAtI, State.spriteAtI, hbytes, drawPixels, drawPixels, hparams, hx, hy]

/-- Settles O38: the second DRAW blits the same pixels, which undoes the first. -/
theorem drawingTwiceRestoresTheDisplay : Obligations.DrawingTwiceRestoresTheDisplay := by
  intro x y n s t u hp hg hin ht hfb hparams hi hbyte hx hy
  rw [next_of_eq ht (exec_draw_in x y hin)] at hfb
  have hfb' : u.fb = blit s.fb (s.spriteAtI x y n) := hfb
  have hin' : ea u n.toNat ≤ 4096 := by rwa [ea, hi]
  refine ⟨_, exec_draw_in x y hin', ?_⟩
  rw [writeFlag_fb, present_fb, State.setFb_fb, spriteAtI_congr n hparams hi hbyte hx hy, hfb']
  exact blit_blit hg (spriteAtI_on_grid hp x y n)

end Sys2Proof.Machine
